-- ==== Sys2Proof/Word.lean ====
section
/-! DEFINITION. The word types of the core (rule R7): every fixed width of the spec, once. -/

namespace Sys2Proof

/-- A command word `CMD[39:0]` (R7 `CMD_W`, R70). -/
abbrev CommandWord := BitVec 40

/-- The 32-bit argument `ARG` of a command word (R70). -/
abbrev Argument := BitVec 32

/-- One of the timecode fields HOUR, MIN, SEC, FRM (R7 `FIELD_W`). -/
abbrev Field := BitVec 8

/-- The absolute frame count COUNT (R7 `COUNT_W`). -/
abbrev Count := BitVec 32

/-- The user-bits register UB (R7 `UB_W`). -/
abbrev UserWord := BitVec 32

/-- A line, or any 90-bit response data (R7 `LINE_W`, R72): bit `i` is line bit `L[i]` (R10). -/
abbrev Line := BitVec 90

/-- One byte of the serial form of a line (R52). -/
abbrev Byte := BitVec 8

end Sys2Proof
end

