-- ==== Sys2Proof/Syntax.lean ====
section
/-! DEFINITION. The commands of the core (R74): one constructor per row of the opcode table, with the
operands of its argument form (R71). -/

namespace Sys2Proof

/-- A command with its operands. Operand widths are those of the argument forms of R71. -/
inductive Instr where
  /-- NOP, opcode 0x00 (R211). -/
  | nop
  /-- SET_HOUR, opcode 0x01 (R152). -/
  | setHour (v : Field)
  /-- SET_MINUTE, opcode 0x02 (R153). -/
  | setMinute (v : Field)
  /-- SET_SECOND, opcode 0x03 (R154). -/
  | setSecond (v : Field)
  /-- SET_FRAME, opcode 0x04 (R155). -/
  | setFrame (v : Field)
  /-- SET_TC, opcode 0x05 (R156): hour, minute, second, frame. -/
  | setTc (h m s f : Field)
  /-- SET_COUNT, opcode 0x06 (R157). -/
  | setCount (n : Argument)
  /-- SET_RATE, opcode 0x07 (R160). The operand is the 32-bit number of R71; only 24, 25 and 30 are legal. -/
  | setRate (r : Argument)
  /-- STEP, opcode 0x08 (R170). -/
  | step
  /-- SWITCH_FIELD, opcode 0x09 (R205). -/
  | switchField
  /-- GENERATE, opcode 0x0A (R202). -/
  | generate
  /-- SET_FLAGS, opcode 0x0B (R204): the five defined bits of the flags word (R36), bit 0 first. -/
  | setFlags (df il cf ubf ext : Bool)
  /-- SET_UB, opcode 0x0C (R206). -/
  | setUb (n : Argument)
  /-- CLEAR_UB, opcode 0x0D (R207). -/
  | clearUb
  /-- READ_TC, opcode 0x0E (R208). -/
  | readTc
  /-- READ_COUNT, opcode 0x0F (R209). -/
  | readCount
  /-- READ_STATUS, opcode 0x10 (R210). -/
  | readStatus
  deriving DecidableEq, Repr

/-- The two errors a command word can end in (R250 to R252). -/
inductive CommandError where
  /-- BadOpcode, status code 1 (R251). -/
  | badOpcode
  /-- BadArg, status code 2 (R252). -/
  | badArg
  deriving DecidableEq, Repr

end Sys2Proof
end

