-- ==== Sys2Proof/WellFormed.lean ====
section
/-! DEFINITION. Which commands are well formed: the one legality condition of R71 that the operand
types of `Instr` do not already carry. -/

namespace Sys2Proof

/-- A command is well formed when its argument is legal for its form (R71). The forms `none`, `u8` and
`flags` are exact in the operand types, `tcw` and `u32` are always legal, and `rate` admits 24, 25, 30. -/
def Instr.wellFormed : Instr → Bool
  | .nop => true
  | .setHour _ => true
  | .setMinute _ => true
  | .setSecond _ => true
  | .setFrame _ => true
  | .setTc _ _ _ _ => true
  | .setCount _ => true
  | .setRate r => r == 24 || r == 25 || r == 30
  | .step => true
  | .switchField => true
  | .generate => true
  | .setFlags _ _ _ _ _ => true
  | .setUb _ => true
  | .clearUb => true
  | .readTc => true
  | .readCount => true
  | .readStatus => true

end Sys2Proof
end

