-- ==== Sys2Proof/Decode.lean ====
section
/-! DEFINITION. The decoder of R76, total on every 40-bit word and refusing by name, and the encoder
written from the same opcode map (R70, R71, R74). -/

namespace Sys2Proof

/-- The six argument forms (R71). -/
inductive Form where
  | none
  | u8
  | tcw
  | u32
  | rate
  | flags
  deriving DecidableEq, Repr

/-- `OPC = CMD[39:32]` (R70). -/
def opcodeField (w : CommandWord) : BitVec 8 := w.extractLsb' 32 8

/-- `ARG = CMD[31:0]` (R70). -/
def argField (w : CommandWord) : Argument := w.extractLsb' 0 32

/-- `{OPC[7:0], ARG[31:0]}` (R70, R78). -/
def commandWord (opc : BitVec 8) (arg : Argument) : CommandWord := opc ++ arg

/-- When ARG is legal for a form (R71, column "legal when"). -/
def Form.legal : Form → Argument → Bool
  | .none, arg => arg == 0
  | .u8, arg => arg.extractLsb' 8 24 == 0
  | .tcw, _ => true
  | .u32, _ => true
  | .rate, arg => arg == 24 || arg == 25 || arg == 30
  | .flags, arg => arg.extractLsb' 5 27 == 0

/-- `v = ARG[7:0]` of form `u8` (R71). -/
def u8Operand (arg : Argument) : Field := arg.extractLsb' 0 8

/-- One row of the opcode map: the argument form and the command with the operands that the form reads
out of ARG (R71, R74). An opcode without a row is reserved (R75). -/
def opcodeRow (opc : Nat) : Option (Form × (Argument → Instr)) :=
  match opc with
  | 0x00 => some (.none, fun _ => .nop)
  | 0x01 => some (.u8, fun a => .setHour (u8Operand a))
  | 0x02 => some (.u8, fun a => .setMinute (u8Operand a))
  | 0x03 => some (.u8, fun a => .setSecond (u8Operand a))
  | 0x04 => some (.u8, fun a => .setFrame (u8Operand a))
  | 0x05 => some (.tcw, fun a =>
      .setTc (a.extractLsb' 24 8) (a.extractLsb' 16 8) (a.extractLsb' 8 8) (a.extractLsb' 0 8))
  | 0x06 => some (.u32, fun a => .setCount a)
  | 0x07 => some (.rate, fun a => .setRate a)
  | 0x08 => some (.none, fun _ => .step)
  | 0x09 => some (.none, fun _ => .switchField)
  | 0x0A => some (.none, fun _ => .generate)
  | 0x0B => some (.flags, fun a =>
      .setFlags (a.getLsbD 0) (a.getLsbD 1) (a.getLsbD 2) (a.getLsbD 3) (a.getLsbD 4))
  | 0x0C => some (.u32, fun a => .setUb a)
  | 0x0D => some (.none, fun _ => .clearUb)
  | 0x0E => some (.none, fun _ => .readTc)
  | 0x0F => some (.none, fun _ => .readCount)
  | 0x10 => some (.none, fun _ => .readStatus)
  | _ => none

/-- The decoding procedure (R76): the opcode check first, then the argument check (R253). -/
def decode (w : CommandWord) : Except CommandError Instr :=
  match opcodeRow (opcodeField w).toNat with
  | none => .error .badOpcode
  | some (form, operands) =>
    if form.legal (argField w) then .ok (operands (argField w)) else .error .badArg

/-- The opcode of a command (R74). -/
def Instr.opcode : Instr → BitVec 8
  | .nop => 0x00
  | .setHour _ => 0x01
  | .setMinute _ => 0x02
  | .setSecond _ => 0x03
  | .setFrame _ => 0x04
  | .setTc _ _ _ _ => 0x05
  | .setCount _ => 0x06
  | .setRate _ => 0x07
  | .step => 0x08
  | .switchField => 0x09
  | .generate => 0x0A
  | .setFlags _ _ _ _ _ => 0x0B
  | .setUb _ => 0x0C
  | .clearUb => 0x0D
  | .readTc => 0x0E
  | .readCount => 0x0F
  | .readStatus => 0x10

/-- The flags word of R36: DF, IL, CF, UBF, EXT in bits 0 to 4, the rest 0. -/
def flagsWord (df il cf ubf ext : Bool) : Argument :=
  (BitVec.ofBool ext ++ BitVec.ofBool ubf ++ BitVec.ofBool cf ++ BitVec.ofBool il
    ++ BitVec.ofBool df).setWidth 32

/-- The argument word of a command (R71); the operand bits of a form that has none are 0. -/
def Instr.argument : Instr → Argument
  | .nop => 0
  | .setHour v => v.setWidth 32
  | .setMinute v => v.setWidth 32
  | .setSecond v => v.setWidth 32
  | .setFrame v => v.setWidth 32
  | .setTc h m s f => h ++ m ++ s ++ f
  | .setCount n => n
  | .setRate r => r
  | .step => 0
  | .switchField => 0
  | .generate => 0
  | .setFlags df il cf ubf ext => flagsWord df il cf ubf ext
  | .setUb n => n
  | .clearUb => 0
  | .readTc => 0
  | .readCount => 0
  | .readStatus => 0

/-- The command word of a command (R70, R74). -/
def encode (i : Instr) : CommandWord := commandWord i.opcode i.argument

/-- The command word given by the `nbits` low bits of `w`, every higher bit 0 (the numbering of the
opcode table: bit 0 is the least significant bit of the one 40-bit word). -/
def tableWord (nbits w : Nat) : CommandWord := BitVec.ofNat 40 (w % 2 ^ nbits)

/-- The instruction the decoder reads from a word of the opcode table; `none` where it refuses. -/
def decodeTableWord (nbits w : Nat) : Option Instr :=
  match decode (tableWord nbits w) with
  | .ok i => some i
  | .error _ => none

end Sys2Proof
end

