-- ==== Sys2Proof/Config.lean ====
section
/-! DEFINITION. What an implementation fixes: the rate kinds (R9) and the two OPEN parameters of the
spec (R8), each a constant without a body, so that a claim holds for every value of it. -/

namespace Sys2Proof

/-- The three rate kinds (R9): Film at 24 fps, PAL at 25, NTSC at 30 nominal. The set is closed. -/
inductive Rate where
  | film
  | pal
  | ntsc
  deriving DecidableEq, Repr, Inhabited

/-- `RESET_RATE` (R8, R34): the value of RATE after reset. OPEN in the spec, with no default,
so a constant without a body (DESIGN CHOICE, safe: a claim holds for every value; log entry 1). -/
opaque Config.resetRate : Rate

/-- `DF_COUNT_SYNC` (R8, R172): whether STEP recomputes COUNT after the drop-frame correction has
forced FRM to 2. OPEN in the spec, which calls `true` the default; the model takes no value
(DESIGN CHOICE, safe: a claim holds for both; log entry 2). -/
opaque Config.dfCountSync : Bool

end Sys2Proof
end

