-- ==== Sys2Proof/Machine/State.lean ====
section
/-! DEFINITION. The state of the machine as plain data: the core's registers (R21), and the model's own
fields at the core's boundary (what the host will do next, the responses it has received, the level of
the reset input). The core has no memory and no program counter (R22, R50), so State has none. -/

namespace Sys2Proof.Machine

/-- The complete architectural state of the core (R20, R21). RATE is held as its rate kind; its five bits
are `Rate.bits` (R25; DESIGN CHOICE, safe: it never holds another value; log entry 7). -/
structure Registers where
  /-- HOUR -/
  hour : Field
  /-- MIN -/
  min : Field
  /-- SEC -/
  sec : Field
  /-- FRM -/
  frm : Field
  /-- COUNT, the absolute frame count (R24) -/
  count : Count
  /-- RATE (R25) -/
  rate : Rate
  /-- DF, drop-frame mode (R26) -/
  df : Bool
  /-- IL, interlaced (R27) -/
  il : Bool
  /-- CF, the colour-framing flag (R28) -/
  cf : Bool
  /-- UBF, the user-bits-format flag (R28) -/
  ubf : Bool
  /-- EXT, the external-clock flag (R28) -/
  ext : Bool
  /-- SFA, second field active (R29) -/
  sfa : Bool
  /-- UB, the user bits (R30) -/
  ub : UserWord
  deriving DecidableEq, Repr

/-- The status of a response (R73). Code 3 is reserved and never produced, so it has no constructor. -/
inductive Status where
  | ok
  | badOpcode
  | badArg
  deriving DecidableEq, Repr

/-- One response: `RSP_STATUS` and `RSP_DATA[89:0]` (R72). -/
structure Response where
  status : Status
  data : Line
  deriving DecidableEq, Repr

/-- What the host does at the core's boundary: it presents a command word (R22, R54, R55), or it moves
the reset input (R270). -/
inductive HostAction where
  /-- present one command word and wait for its response -/
  | command (w : CommandWord)
  /-- assert the reset input -/
  | assertReset
  /-- release the reset input -/
  | releaseReset
  deriving DecidableEq, Repr

/-- The machine. `regs` is the whole state of the core (R20); the other fields are the MODEL's own record
of the core's boundary and are no registers of the core (R38; DESIGN CHOICE and DEDUCED, log entries 3
to 5). -/
structure State where
  /-- the core's registers (R21) -/
  regs : Registers
  /-- what the host will do, next action first (R22: the host holds its sequence) -/
  host : List HostAction
  /-- the responses the host has received, in command order (R72, R277) -/
  responses : List Response
  /-- whether the reset input is asserted (R270) -/
  resetLine : Bool
  deriving DecidableEq, Repr

/-- The reasons the machine could stop with a fault: none. The core raises no trap and no exception
(R250); its two errors are responses after which it goes on (R251, R252, R254; DEDUCED, safe, log entry
10). -/
inductive Fault where
  deriving DecidableEq, Repr

/-- The reasons an instruction could be refused. -/
inductive Refusal where
  /-- Raised by `exec` alone, for an instruction without a meaning yet. Safe: nothing can be proved of
  such an instruction. No arm raises it: every command has its meaning. -/
  | notModelled (mnemonic : String)
  deriving DecidableEq, Repr

/-- The registers when reset is released (R34, R270): RATE is the parameter `RESET_RATE`, all else 0. -/
def Registers.reset : Registers where
  hour := 0
  min := 0
  sec := 0
  frm := 0
  count := 0
  rate := Config.resetRate
  df := false
  il := false
  cf := false
  ubf := false
  ext := false
  sfa := false
  ub := 0

/-- The machine right after reset (R270, R271): the registers of R34, the reset input released, no
command presented yet and no response given. -/
def State.reset : State where
  regs := Registers.reset
  host := []
  responses := []
  resetLine := false

end Sys2Proof.Machine
end

