-- ==== Sys2Proof/Machine/Ops.lean ====
section
/-! DEFINITION. The operations the commands share: the rate helper, the two conversions of the clock
(R150, R151), storing a timecode and recomputing COUNT, completing a command with its response, and
ending one in an error. -/

namespace Sys2Proof

/-- The nominal fps value of a rate kind (R9, R25). -/
def Rate.fps : Rate → Nat
  | .film => 24
  | .pal => 25
  | .ntsc => 30

/-- RATE as the 5-bit register holds it (R21, R25). -/
def Rate.bits (k : Rate) : BitVec 5 := BitVec.ofNat 5 k.fps

/-- The rate kind with a given fps value, if there is one (R160: `r` in 24, 25, 30). -/
def Rate.ofFps? (r : Nat) : Option Rate :=
  if r = 24 then some .film else if r = 25 then some .pal else if r = 30 then some .ntsc else none

end Sys2Proof

namespace Sys2Proof.Machine

/-- `RSP_STATUS[1:0]` (R73). -/
def Status.code : Status → BitVec 2
  | .ok => 0
  | .badOpcode => 1
  | .badArg => 2

/-- The status an error is reported with (R73, R251, R252). -/
def errorStatus : CommandError → Status
  | .badOpcode => .badOpcode
  | .badArg => .badArg

/-- A timecode as numbers, for arithmetic over the naturals (R12). -/
structure Timecode where
  hour : Nat
  minute : Nat
  second : Nat
  frame : Nat
  deriving DecidableEq, Repr

/-- `countOf` (R150): no wrap of the hour and no range check. -/
def countOf (t : Timecode) (fps : Nat) : Nat :=
  t.frame + fps * t.second + fps * 60 * t.minute + fps * 3600 * t.hour

/-- `fieldsOf` (R151): the timecode of an absolute count, the hour wrapped modulo 24. -/
def fieldsOf (n fps : Nat) : Timecode where
  frame := n % fps
  second := n / fps % 60
  minute := n / (fps * 60) % 60
  hour := n / (fps * 3600) % 24

/-- `fps()` (R25). -/
abbrev Registers.fps (r : Registers) : Nat := r.rate.fps

/-- The four timecode fields as numbers. -/
def Registers.timecode (r : Registers) : Timecode where
  hour := r.hour.toNat
  minute := r.min.toNat
  second := r.sec.toNat
  frame := r.frm.toNat

/-- Stores a timecode into HOUR, MIN, SEC and FRM (R12: a store into a register truncates to its width). -/
def Registers.storeTimecode (r : Registers) (t : Timecode) : Registers :=
  { r with
    hour := BitVec.ofNat 8 t.hour
    min := BitVec.ofNat 8 t.minute
    sec := BitVec.ofNat 8 t.second
    frm := BitVec.ofNat 8 t.frame }

/-- The count of the stored fields at the current rate, as COUNT holds it (R24, R150). -/
def Registers.fieldCount (r : Registers) : Count := BitVec.ofNat 32 (countOf r.timecode r.fps)

/-- `COUNT <- countOf(HOUR, MIN, SEC, FRM, fps())` (R24). -/
def Registers.recount (r : Registers) : Registers := { r with count := r.fieldCount }

/-- Re-derives the four fields from COUNT at the current rate, `fieldsOf(COUNT, fps())` (R24). -/
def Registers.rederive (r : Registers) : Registers :=
  r.storeTimecode (fieldsOf r.count.toNat r.fps)

/-- `respond(status, data)` (R13, R72): the host receives the response; no register changes. -/
def State.respond (s : State) (status : Status) (data : Line) : State :=
  { s with responses := s.responses ++ [⟨status, data⟩] }

/-- A command completes: the registers take their new values and the host receives `OK` with the data
(R56, R72). -/
def complete (r : Registers) (data : Line) (s : State) : Host.Outcome State Fault Refusal :=
  .next (State.respond { s with regs := r } .ok data)

/-- `raise BadOpcode(cmd)` and `raise BadArg(cmd)` (R13, R251, R252): the one way a command ends in an
error. The host receives the error's status with data 0, no register changes, nothing is saved, and the
next command is accepted as after an OK (R254): there is no handler and no return. -/
def raise (e : CommandError) (s : State) : Host.Outcome State Fault Refusal :=
  .next (s.respond (errorStatus e) 0)

end Sys2Proof.Machine
end

