-- ==== Sys2Proof/Machine/Operands.lean ====
section
/-! DEFINITION. The packed views of the registers that commands return (R35, R37) and the nibbles of the
user bits (R53). -/

namespace Sys2Proof.Machine

/-- The timecode word `{HOUR[7:0], MIN[7:0], SEC[7:0], FRM[7:0]}` (R37). -/
def Registers.timecodeWord (r : Registers) : BitVec 32 := r.hour ++ r.min ++ r.sec ++ r.frm

/-- The status word (R35): DF, IL, CF, UBF, EXT, SFA in bits 0 to 5, RATE in bits 12:8, the rest 0. -/
def Registers.statusWord (r : Registers) : BitVec 32 :=
  (r.rate.bits ++ 0#2 ++ BitVec.ofBool r.sfa ++ BitVec.ofBool r.ext ++ BitVec.ofBool r.ubf
    ++ BitVec.ofBool r.cf ++ BitVec.ofBool r.il ++ BitVec.ofBool r.df).setWidth 32

/-- `zext_90` of a 32-bit word read (R11, R72). -/
def readData (w : BitVec 32) : Line := w.setWidth 90

/-- Nibble `k` of the user bits, `UB[4k+3:4k]` (R53). -/
def userNibble (ub : UserWord) (k : Nat) : BitVec 4 := ub.extractLsb' (4 * k) 4

end Sys2Proof.Machine
end

