-- ==== Sys2Proof/Machine/Clock.lean ====
section
/-! DEFINITION. The Timecode Clock (R150 to R175): the field sets, the count set, the rate change and
STEP. -/

namespace Sys2Proof.Machine

/-- SET_HOUR (R152): any value is stored verbatim and COUNT is recomputed. -/
def execSetHour (v : Field) (s : State) : Host.Outcome State Fault Refusal :=
  complete { s.regs with hour := v }.recount 0 s

/-- SET_MINUTE (R153). -/
def execSetMinute (v : Field) (s : State) : Host.Outcome State Fault Refusal :=
  complete { s.regs with min := v }.recount 0 s

/-- SET_SECOND (R154). -/
def execSetSecond (v : Field) (s : State) : Host.Outcome State Fault Refusal :=
  complete { s.regs with sec := v }.recount 0 s

/-- SET_FRAME (R155). No drop-frame correction (R159). -/
def execSetFrame (v : Field) (s : State) : Host.Outcome State Fault Refusal :=
  complete { s.regs with frm := v }.recount 0 s

/-- SET_TC (R156). -/
def execSetTc (h m sec f : Field) (s : State) : Host.Outcome State Fault Refusal :=
  complete { s.regs with hour := h, min := m, sec := sec, frm := f }.recount 0 s

/-- SET_COUNT (R157): COUNT is stored verbatim, the fields are `fieldsOf(n, fps())`. -/
def execSetCount (n : Argument) (s : State) : Host.Outcome State Fault Refusal :=
  complete { s.regs with count := n }.rederive 0 s

/-- The registers after a change to rate `k` (R160): exact product, floor division, `mod 2^32`, then the
fields from COUNT at the new rate. -/
def Registers.changeRate (r : Registers) (k : Rate) : Registers :=
  { r with count := BitVec.ofNat 32 (r.count.toNat * k.fps / r.fps), rate := k }.rederive

/-- SET_RATE (R160). The check the decoder makes already (R76) is made here too, as R160 writes it
(DEDUCED, safe, log entry 11). -/
def execSetRate (r : Argument) (s : State) : Host.Outcome State Fault Refusal :=
  match Rate.ofFps? r.toNat with
  | none => raise .badArg s
  | some k => complete (s.regs.changeRate k) 0 s

/-- `if f >= fps(): f = 0; s = s + 1` (R170). -/
def carryFrame (fps : Nat) (t : Timecode) : Timecode :=
  if t.frame ≥ fps then { t with frame := 0, second := t.second + 1 } else t

/-- `if s > 59: s = 0; m = m + 1` (R170). -/
def carrySecond (t : Timecode) : Timecode :=
  if t.second > 59 then { t with second := 0, minute := t.minute + 1 } else t

/-- `if m > 59: m = 0; h = h + 1` (R170). -/
def carryMinute (t : Timecode) : Timecode :=
  if t.minute > 59 then { t with minute := 0, hour := t.hour + 1 } else t

/-- `if h > 23: h = 0` (R170). -/
def carryHour (t : Timecode) : Timecode := if t.hour > 23 then { t with hour := 0 } else t

/-- One frame on: the four tests of R170 in order, each unconditional (R171), over the naturals (R12). -/
def cascade (fps : Nat) (t : Timecode) : Timecode :=
  carryHour (carryMinute (carrySecond (carryFrame fps { t with frame := t.frame + 1 })))

/-- The condition of the drop-frame correction, on the fields after the cascade (R170, R172, R175; DEDUCED
against R174(c), log entry 6). -/
def Registers.dropsFrames (r : Registers) : Bool :=
  r.df && (r.rate == .ntsc) && (r.sec == 0) && (r.frm == 0) && (r.min.toNat % 10 != 0)

/-- The drop-frame correction (R172): FRM is forced to 2, and COUNT is recomputed exactly when `sync`,
the parameter `DF_COUNT_SYNC`, is true. -/
def Registers.correctDropFrame (sync : Bool) (r : Registers) : Registers :=
  { r with frm := 2, count := if sync then { r with frm := 2 }.fieldCount else r.count }

/-- The registers after STEP (R170), for a value of `DF_COUNT_SYNC`. -/
def Registers.advance (sync : Bool) (r : Registers) : Registers :=
  let moved := (r.storeTimecode (cascade r.fps r.timecode)).recount
  let corrected := if moved.dropsFrames then moved.correctDropFrame sync else moved
  { corrected with sfa := false }

/-- STEP (R170). -/
def execStep (s : State) : Host.Outcome State Fault Refusal :=
  complete (s.regs.advance Config.dfCountSync) 0 s

end Sys2Proof.Machine
end

