-- ==== Sys2Proof/Machine/Flags.lean ====
section
/-! DEFINITION. The six flag bits of the line, derived from the registers (R32, R201). -/

namespace Sys2Proof.Machine

/-- The six flag bits of a line (R104). None is stored (R32). -/
structure LineFlags where
  /-- frame-drop flag -/
  b14 : Bool
  /-- colour-framing flag -/
  b15 : Bool
  /-- NTSC-second-field flag -/
  b35 : Bool
  /-- user-bits-format flag -/
  b55 : Bool
  /-- external-clock flag -/
  b74 : Bool
  /-- PAL-second-field flag -/
  b75 : Bool
  deriving DecidableEq, Repr

/-- `Flags(state)` (R201). -/
def Registers.lineFlags (r : Registers) : LineFlags where
  b14 := r.df && (r.rate == .ntsc)
  b15 := r.cf
  b35 := r.sfa && (r.rate == .ntsc)
  b55 := r.ubf
  b74 := r.ext
  b75 := r.sfa && (r.rate == .pal)

end Sys2Proof.Machine
end

