-- ==== Sys2Proof/Machine/Layout.lean ====
section
/-! DEFINITION. The Bit-Layout Encoder (R100 to R112): the pure function from a timecode, six flag bits
and the user bits to line bits 0 to 81. -/

namespace Sys2Proof.Machine

/-- A line under construction: its bits by index. Only the finished `Line` is ever stored. -/
abbrev LineBits := Nat → Bool

/-- The 90-bit vector with these bits, bit 0 the first of the line (R10, R51). -/
def lineOfBits (p : LineBits) : Line := BitVec.ofFnLE fun i : Fin 90 => p i.val

/-- `put(base, value, width)` (R112): the value's bits, least significant first, from index `base` on. -/
def put (base value width : Nat) (p : LineBits) : LineBits := fun i =>
  if base ≤ i ∧ i < base + width then value.testBit (i - base) else p i

/-- `P[i] <- b` (R112). -/
def putBit (index : Nat) (b : Bool) (p : LineBits) : LineBits := fun i => if i = index then b else p i

/-- All bits 0, then the nine sync bits 1 (R101). -/
def syncBits : LineBits := fun i => i % 10 == 0 && decide (i ≤ 80)

/-- The digit fields (R102, R103): units in 4 bits, tens by the low bits of the full quotient. -/
def putDigits (t : Timecode) (p : LineBits) : LineBits :=
  p |> put 2 (t.frame % 10) 4 |> put 12 (t.frame / 10 % 4) 2
    |> put 22 (t.second % 10) 4 |> put 32 (t.second / 10 % 8) 3
    |> put 42 (t.minute % 10) 4 |> put 52 (t.minute / 10 % 8) 3
    |> put 62 (t.hour % 10) 4 |> put 72 (t.hour / 10 % 4) 2

/-- The six flag bits (R104). -/
def putFlags (fl : LineFlags) (p : LineBits) : LineBits :=
  p |> putBit 14 fl.b14 |> putBit 15 fl.b15 |> putBit 35 fl.b35
    |> putBit 55 fl.b55 |> putBit 74 fl.b74 |> putBit 75 fl.b75

/-- The eight user-bit nibbles (R105): nibble `k` at bits `10k+6 .. 10k+9`, its bit 0 first. -/
def putUserBits (ub : UserWord) (p : LineBits) : LineBits :=
  (List.range 8).foldl (fun q k => put (10 * k + 6) (userNibble ub k).toNat 4 q) p

/-- `Layout` (R112). Bits 81 to 89 are left 0 (R106). -/
def layout (t : Timecode) (fl : LineFlags) (ub : UserWord) : Line :=
  lineOfBits (syncBits |> putDigits t |> putFlags fl |> putUserBits ub)

end Sys2Proof.Machine
end

