-- ==== Sys2Proof/Machine/Checksum.lean ====
section
/-! DEFINITION. The Checksum Stage (R130, R131): bits 82 to 89 by even parity over fixed index sets. -/

namespace Sys2Proof.Machine

/-- `SET(i)`, as the spec lists it (R131); the listed set governs for bit 88 (90_conflicts.md C3). -/
def paritySet : Nat → List Nat
  | 82 => [2, 10, 18, 26, 34, 42, 50, 58, 66, 74]
  | 83 => [3, 11, 19, 27, 35, 43, 51, 59, 67, 75]
  | 84 => [4, 12, 20, 28, 36, 44, 52, 60, 68, 76]
  | 85 => [5, 13, 21, 29, 37, 45, 53, 61, 69, 77]
  | 86 => [6, 14, 22, 30, 38, 46, 54, 62, 70, 78]
  | 87 => [7, 15, 23, 31, 39, 47, 55, 63, 71, 79]
  | 88 => [0, 8, 16, 24, 32, 40, 48, 56, 64, 72, 80]
  | 89 => [1, 9, 17, 25, 33, 41, 49, 57, 65, 73, 81]
  | _ => []

/-- The XOR of the bits of a line at the listed indices (R131). -/
def parityOver (js : List Nat) (l : Line) : Bool := js.foldl (fun acc j => xor acc (l.getLsbD j)) false

/-- `Checksum(P)` (R130): bits 82 to 89 replaced by their parities, bits 0 to 81 unchanged. -/
def checksum (p : Line) : Line :=
  lineOfBits fun i => if 82 ≤ i then parityOver (paritySet i) p else p.getLsbD i

end Sys2Proof.Machine
end

