-- ==== Sys2Proof/Machine/Codec.lean ====
section
/-! DEFINITION. The Line Codec supervisor (R200 to R213): the line as a function of the registers, its
commands, and the phase. -/

namespace Sys2Proof.Machine

/-- `Line(state)` (R200): flags, layout, checksum. It reads neither IL nor COUNT. -/
def Registers.line (r : Registers) : Line := checksum (layout r.timecode r.lineFlags r.ub)

/-- NOP (R211). -/
def execNop (s : State) : Host.Outcome State Fault Refusal := complete s.regs 0 s

/-- SWITCH_FIELD (R205): toggles SFA when IL is set; a no-op that answers OK otherwise. -/
def execSwitchField (s : State) : Host.Outcome State Fault Refusal :=
  complete { s.regs with sfa := if s.regs.il then !s.regs.sfa else s.regs.sfa } 0 s

/-- GENERATE (R202): the line of the current state is the response data; no register is written. -/
def execGenerate (s : State) : Host.Outcome State Fault Refusal := complete s.regs s.regs.line s

/-- SET_FLAGS (R204): all five switches are written together; SFA is not. -/
def execSetFlags (df il cf ubf ext : Bool) (s : State) : Host.Outcome State Fault Refusal :=
  complete { s.regs with df := df, il := il, cf := cf, ubf := ubf, ext := ext } 0 s

/-- SET_UB (R206). -/
def execSetUb (n : Argument) (s : State) : Host.Outcome State Fault Refusal :=
  complete { s.regs with ub := n } 0 s

/-- CLEAR_UB (R207). -/
def execClearUb (s : State) : Host.Outcome State Fault Refusal :=
  complete { s.regs with ub := 0 } 0 s

/-- READ_TC (R208): the fields as stored. -/
def execReadTc (s : State) : Host.Outcome State Fault Refusal :=
  complete s.regs (readData s.regs.timecodeWord) s

/-- READ_COUNT (R209). -/
def execReadCount (s : State) : Host.Outcome State Fault Refusal :=
  complete s.regs (readData s.regs.count) s

/-- READ_STATUS (R210). -/
def execReadStatus (s : State) : Host.Outcome State Fault Refusal :=
  complete s.regs (readData s.regs.statusWord) s

/-- The supervisor phases (R31, R213). The phase `idle` is the name of the reset state before the first
command; it has SFA = 0 and behaves as `firstFieldReady`, so it is no value of its own. -/
inductive Phase where
  | firstFieldReady
  | secondFieldReady
  deriving DecidableEq, Repr

/-- The phase as a function of SFA (R31). -/
def Registers.phase (r : Registers) : Phase :=
  if r.sfa then .secondFieldReady else .firstFieldReady

end Sys2Proof.Machine
end

