-- ==== Sys2Proof/Machine/Dispatch.lean ====
section
/-! DEFINITION. The dispatch: one arm per command, each a direct call of its meaning. -/

namespace Sys2Proof.Machine

def exec (i : Instr) (s : State) : Host.Outcome State Fault Refusal :=
  match i with
  | .nop => Sys2Proof.Machine.execNop s
  | .setHour v => Sys2Proof.Machine.execSetHour v s
  | .setMinute v => Sys2Proof.Machine.execSetMinute v s
  | .setSecond v => Sys2Proof.Machine.execSetSecond v s
  | .setFrame v => Sys2Proof.Machine.execSetFrame v s
  | .setTc h m sec f => Sys2Proof.Machine.execSetTc h m sec f s
  | .setCount n => Sys2Proof.Machine.execSetCount n s
  | .setRate r => Sys2Proof.Machine.execSetRate r s
  | .step => Sys2Proof.Machine.execStep s
  | .switchField => Sys2Proof.Machine.execSwitchField s
  | .generate => Sys2Proof.Machine.execGenerate s
  | .setFlags df il cf ubf ext => Sys2Proof.Machine.execSetFlags df il cf ubf ext s
  | .setUb n => Sys2Proof.Machine.execSetUb n s
  | .clearUb => Sys2Proof.Machine.execClearUb s
  | .readTc => Sys2Proof.Machine.execReadTc s
  | .readCount => Sys2Proof.Machine.execReadCount s
  | .readStatus => Sys2Proof.Machine.execReadStatus s

end Sys2Proof.Machine
end

