-- ==== Sys2Proof/Machine/Fetch.lean ====
section
/-! DEFINITION. How the core meets its host (R22, R55, R270): it takes the host's next action, runs a
presented command word to its end, and follows the reset input. Nothing is fetched from anywhere (R60). -/

namespace Sys2Proof.Machine

/-- `Exec(cmd)` (R13, R76, R253): a legal word runs its command, an illegal one ends in its error. -/
def runCommand (w : CommandWord) (s : State) : Host.Outcome State Fault Refusal :=
  match decode w with
  | .ok i => exec i s
  | .error e => raise e s

/-- Reset is released (R270): every register takes its value of R34, if reset was asserted. Until then the
registers keep their values (DESIGN CHOICE, unsafe for a claim about that time; log entry 4). -/
def releaseReset (s : State) : State :=
  { s with regs := if s.resetLine then Registers.reset else s.regs, resetLine := false }

/-- The core takes the host's next action. A command is run to its response before the next action
(R55, R56). While reset is asserted no command is accepted (R270): the word stays presented and nothing
changes (DESIGN CHOICE, unsafe, log entry 4). The word then keeps the head of the host's list, so a
`releaseReset` behind it is never taken and every further step changes nothing: R256 and R270 do not say
whether reset can be released while a word is presented (DESIGN CHOICE, unsafe, log entry 15). With no
action the core waits and nothing changes (R258; DESIGN CHOICE, safe, log entry 3). -/
def takeHostAction (s : State) : Host.Outcome State Fault Refusal :=
  match s.host with
  | [] => .next s
  | .command w :: rest => if s.resetLine then .next s else runCommand w { s with host := rest }
  | .assertReset :: rest => .next { s with host := rest, resetLine := true }
  | .releaseReset :: rest => .next (releaseReset { s with host := rest })

/-- The state in which the host presents `w` next, the reset input released. -/
def presentNext (w : CommandWord) (s : State) : State :=
  { s with host := .command w :: s.host, resetLine := false }

end Sys2Proof.Machine
end

