-- ==== Sys2Proof/Machine/Step.lean ====
section
/-! DEFINITION. One step of the machine: one action of the host, so one command (R3, R55). -/

namespace Sys2Proof.Machine

/-- One step (R3: one command per step). -/
def step (s : State) : Host.Outcome State Fault Refusal := takeHostAction s

/-- `s` with the word of the opcode table presented as the next command (log entry 3). -/
def State.withFetchWord (s : State) (nbits w : Nat) : State := presentNext (tableWord nbits w) s

end Sys2Proof.Machine
end

