-- ==== Sys2Proof/Machine/HostSide.lean ====
section
/-! DEFINITION. What the spec says of the host's side of the interface, as pure functions: the serial
form of a line (R212), the events of the schedule as commands (R214), the packing of a 4-byte payload
(R59), the pseudo-instructions (R79) and the driver's commands for one frame (R215). The core issues none
of these; it only runs the commands. -/

namespace Sys2Proof.Machine

/-- `ByteStream(L)` (R52, R212): 90 bytes, 0xFF for a 1 bit and 0x00 for a 0 bit, bit 0 first. -/
def byteStream (l : Line) : List Byte :=
  (List.range 90).map fun i => if l.getLsbD i then 0xFF else 0x00

/-- The packing of a 4-byte payload into UB, `b0 | b1<<8 | b2<<16 | b3<<24` (R59). -/
def packUserBytes (b0 b1 b2 b3 : Byte) : UserWord := b3 ++ b2 ++ b1 ++ b0

/-- An event of the source's schedule (R214). -/
inductive HostEvent where
  /-- `SetUserBits(b0,b1,b2,b3)` -/
  | setUserBits (b0 b1 b2 b3 : Byte)
  /-- `SetTimecode(h:m:s:f)` -/
  | setTimecode (h m s f : Field)
  /-- `ClearUserBits` -/
  | clearUserBits
  deriving DecidableEq, Repr

/-- The one command an event is (R214; the pseudo-instructions `EV_SETUB`, `EV_SETTC`, `EV_CLEARUB` of
R79 are the same commands). -/
def HostEvent.command : HostEvent → Instr
  | .setUserBits b0 b1 b2 b3 => .setUb (packUserBytes b0 b1 b2 b3)
  | .setTimecode h m s f => .setTc h m s f
  | .clearUserBits => .clearUb

/-- The pseudo-instruction `FIELDS2` (R79). -/
def fields2 : List Instr := [.generate, .switchField, .generate]

/-- The pseudo-instruction `NEXT` (R79). -/
def nextFrame : List Instr := [.step, .generate]

/-- The driver's commands for one frame (R215): STEP, the frame's event if there is one, GENERATE, and
if interlaced SWITCH_FIELD and GENERATE for the second field. -/
def frameSequence (event : Option HostEvent) (interlaced : Bool) : List Instr :=
  [.step] ++ (event.map HostEvent.command).toList ++ [.generate]
    ++ (if interlaced then [.switchField, .generate] else [])

/-- The host presents these commands, in this order (R22, R55). -/
def present (is : List Instr) : List HostAction := is.map fun i => .command (encode i)

end Sys2Proof.Machine
end

