-- ==== Sys2Proof/Safety.lean ====
section
/-! DEFINITION. What claims are stated in: runs of several commands, the normal ranges of the timecode,
the agreement of the two views of the clock, and the legal form of a response. -/

namespace Sys2Proof.Machine

/-- Runs commands one after another, stopping at the first that does not answer a next state. -/
def execAll : List Instr → State → Host.Outcome State Fault Refusal
  | [], s => .next s
  | i :: is, s =>
    match exec i s with
    | .next t => execAll is t
    | .fault r => .fault r
    | .refused r => .refused r

/-- The normal ranges of the four timecode fields (R23, R33). -/
abbrev Registers.inRange (r : Registers) : Prop :=
  r.frm.toNat < r.fps ∧ r.sec.toNat ≤ 59 ∧ r.min.toNat ≤ 59 ∧ r.hour.toNat ≤ 23

/-- The number of frames of a day at the current rate. -/
abbrev Registers.framesPerDay (r : Registers) : Nat := r.fps * 86400

/-- The stale view that a drop-frame correction leaves when COUNT is not recomputed (R24, R172): the label
is frame 2 of a minute that is no multiple of ten, and COUNT is 2 below its count. -/
def Registers.staleCount (r : Registers) : Prop :=
  r.rate = .ntsc ∧ r.sec = 0 ∧ r.frm = 2 ∧ r.min.toNat % 10 ≠ 0 ∧
    r.count.toNat + 2 = countOf r.timecode r.fps

/-- The two views of the clock agree (R24): COUNT and the count of the fields are equal modulo one day, or,
only if `sync`, the parameter `DF_COUNT_SYNC`, is false, COUNT is stale as a correction leaves it. -/
def Registers.countTracksFields (sync : Bool) (r : Registers) : Prop :=
  r.count.toNat % r.framesPerDay = countOf r.timecode r.fps % r.framesPerDay ∨
    (sync = false ∧ r.staleCount)

/-- A response has its legal form (R72): one that is not OK carries no data. -/
abbrev Response.legal (r : Response) : Prop := r.status ≠ .ok → r.data = 0

/-- Every response given so far has its legal form. -/
abbrev State.responsesLegal (s : State) : Prop := ∀ r ∈ s.responses, r.legal

/-- When ARG is illegal for an assigned opcode, row by row of the table of R252. Written here from that
table, apart from the decoder. -/
def argumentIllegal (opc arg : Nat) : Bool :=
  if opc ∈ [0x00, 0x08, 0x09, 0x0A, 0x0D, 0x0E, 0x0F, 0x10] then arg != 0
  else if opc ∈ [0x01, 0x02, 0x03, 0x04] then arg / 2 ^ 8 != 0
  else if opc = 0x07 then !([24, 25, 30].contains arg)
  else if opc = 0x0B then arg / 2 ^ 5 != 0
  else false

/-- A label that the drop-frame correction skips (R174): frame 0 or 1 of a minute that is no multiple of
ten. -/
abbrev Registers.onSkippedLabel (r : Registers) : Prop :=
  r.sec = 0 ∧ (r.frm = 0 ∨ r.frm = 1) ∧ r.min.toNat % 10 ≠ 0

/-- The XOR of the bits of a line whose index is below `n` and in residue class `c` modulo 8 (R132, R133). -/
def classParity (n c : Nat) (l : Line) : Bool :=
  ((List.range n).filter fun j => j % 8 == c).foldl (fun acc j => xor acc (l.getLsbD j)) false

/-- The number that `width` line bits from index `base` on encode, least significant bit first (R10). -/
def lineField (l : Line) (base width : Nat) : Nat := (l.extractLsb' base width).toNat

end Sys2Proof.Machine
end

