-- ==== Sys2Proof/Certificates/Slice0/Obligations.lean ====
section
/-! DEFINITION. The statements for the provers, each from the numbered rules its docstring names. A
statement that writes the next state as `{ s with … }` says the frame too: every field not named is
unchanged. The core has no memory (R50), so no statement speaks of memory. -/

open Sys2Proof Sys2Proof.Machine

/-! ## Encoding -/

/-- The example words of R78 decode to the commands they stand for. -/
def Obligations.ExampleWordsDecode : Prop :=
  decode 0x0700000019 = .ok (.setRate 25) ∧
  decode 0x0501020304 = .ok (.setTc 1 2 3 4) ∧
  decode 0x0B00000003 = .ok (.setFlags true true false false false) ∧
  decode 0x0800000000 = .ok .step ∧
  decode 0x0A00000000 = .ok .generate

/-- Decoding the encoding of a well-formed command gives it back, with every operand (R71, R74, R76). -/
def Obligations.DecodeOfEncode : Prop :=
  ∀ i : Instr, i.wellFormed = true → decode (encode i) = .ok i

/-- A word that decodes is the one encoding of its command, and that command is well formed: each legal
word has one meaning and each command one word (R71, R77). -/
def Obligations.EncodeOfDecode : Prop :=
  ∀ (w : CommandWord) (i : Instr), decode w = .ok i → i.wellFormed = true ∧ encode i = w

/-- R251: a reserved opcode, whatever ARG holds, answers status code 1 with data 0 and changes no
register; nothing else is recorded. -/
def Obligations.ReservedOpcodeAnswersBadOpcode : Prop :=
  ∀ (w : CommandWord) (rest : List HostAction) (s : State),
    s.host = .command w :: rest → s.resetLine = false → 0x11 ≤ w.toNat / 2 ^ 32 →
    step s = .next { s with host := rest, responses := s.responses ++ [⟨.badOpcode, 0⟩] } ∧
      Status.code .badOpcode = 1

/-- R252: an assigned opcode with an ARG that breaks its form's condition answers status code 2 with
data 0 and changes no register; with any other ARG the command of the word runs. -/
def Obligations.IllegalArgumentAnswersBadArg : Prop :=
  Status.code .badArg = 2 ∧
  ∀ (w : CommandWord) (rest : List HostAction) (s : State),
    s.host = .command w :: rest → s.resetLine = false → w.toNat / 2 ^ 32 ≤ 0x10 →
    (argumentIllegal (w.toNat / 2 ^ 32) (w.toNat % 2 ^ 32) = true →
      step s = .next { s with host := rest, responses := s.responses ++ [⟨.badArg, 0⟩] }) ∧
    (argumentIllegal (w.toNat / 2 ^ 32) (w.toNat % 2 ^ 32) = false →
      ∃ i, decode w = .ok i ∧ step s = exec i { s with host := rest })

/-- R253: one command reports exactly one status; the opcode check comes first, then the argument check,
and only a word that passes both gives OK. -/
def Obligations.OneStatusPerCommand : Prop :=
  ∀ (w : CommandWord) (rest : List HostAction) (s : State),
    s.host = .command w :: rest → s.resetLine = false →
    ∃ t d, step s = .next t ∧
      t.responses = s.responses ++
        [⟨if 0x10 < w.toNat / 2 ^ 32 then .badOpcode
          else if argumentIllegal (w.toNat / 2 ^ 32) (w.toNat % 2 ^ 32) = true then .badArg
          else .ok, d⟩]

/-! ## The step and the host -/

/-- When the word the host presents decodes to a command, the step is that command's meaning on the state
with the word taken from the host (R55, R76). The host's queue is the model's own field (log entry 3). -/
def Obligations.StepRunsTheDecodedCommand : Prop :=
  ∀ (w : CommandWord) (i : Instr) (rest : List HostAction) (s : State),
    s.host = .command w :: rest → s.resetLine = false → decode w = .ok i →
    step s = exec i { s with host := rest }

/-- Presented commands run one after another, in the order presented, each on the registers the one
before left (R22, R55). The host's queue is the model's own field (log entry 3). The words are those of
well-formed commands: illegal words are left to `ReservedOpcodeAnswersBadOpcode` and
`IllegalArgumentAnswersBadArg`. -/
def Obligations.PresentedCommandsRunInOrder : Prop :=
  ∀ (is : List Instr) (rest : List HostAction) (s : State),
    (∀ i ∈ is, i.wellFormed = true) → s.resetLine = false →
    Host.Core.run Sys2Proof.core is.length { s with host := present is ++ rest } =
      execAll is { s with host := rest }

/-- No step stops: the core raises no trap (R250) and completes every command (R276). That a step with
nothing presented answers a next state too is the model's choice (log entry 3), and so is the step with a
word presented while reset is asserted (log entries 4 and 15). -/
def Obligations.StepAlwaysAnswersNext : Prop :=
  ∀ s : State, ∃ t, step s = .next t

/-- Every command gives exactly one response, takes nothing else from the host, and, unless the response
is OK, changes no register and carries no data (R33(e), R56, R72). -/
def Obligations.EveryCommandGivesOneResponse : Prop :=
  ∀ (i : Instr) (s : State), ∃ r a,
    exec i s = .next { s with regs := r, responses := s.responses ++ [a] } ∧
      (a.status ≠ .ok → r = s.regs ∧ a.data = 0)

/-! ## Reset -/

/-- R34: the reset value of each register. -/
def Obligations.ResetStateHoldsTheResetValues : Prop :=
  State.reset.regs.hour = 0 ∧ State.reset.regs.min = 0 ∧ State.reset.regs.sec = 0 ∧
  State.reset.regs.frm = 0 ∧ State.reset.regs.count = 0 ∧
  State.reset.regs.rate = Config.resetRate ∧ State.reset.regs.df = false ∧
  State.reset.regs.il = false ∧ State.reset.regs.cf = false ∧ State.reset.regs.ubf = false ∧
  State.reset.regs.ext = false ∧ State.reset.regs.sfa = false ∧ State.reset.regs.ub = 0

/-- The reset input from any state (R270): after it is asserted no command is accepted, and when it is
released every register holds its reset value. The reset input as a host action, the registers keeping
their values until the release, and the word staying presented are the model's choice (log entry 4), and so
is that a release behind the word is not taken (log entry 15). -/
def Obligations.ResetInputResetsTheRegisters : Prop :=
  ∀ (rest : List HostAction) (s : State),
    (s.host = .assertReset :: rest → step s = .next { s with host := rest, resetLine := true }) ∧
    (s.resetLine = true → ∀ w, s.host = .command w :: rest → step s = .next s) ∧
    (s.resetLine = true → s.host = .releaseReset :: rest →
      step s = .next { s with host := rest, resetLine := false, regs := State.reset.regs })

/-- R271: GENERATE right after reset returns the line of 00:00:00:00 with every flag and UB 0, whatever
`RESET_RATE` is (the bits are those of vector L2-1). -/
def Obligations.GenerateAfterReset : Prop :=
  exec .generate State.reset =
    .next { State.reset with responses := [⟨.ok, 0x10100401004010040100401⟩] }

/-! ## The two conversions -/

/-- R150: `countOf` of any register contents is the sum of the rule, at most 28,006,905, so that it
always fits COUNT. -/
def Obligations.CountOfFitsTheCountRegister : Prop :=
  ∀ r : Registers,
    countOf r.timecode r.fps = r.frm.toNat + r.fps * r.sec.toNat + r.fps * 60 * r.min.toNat
      + r.fps * 3600 * r.hour.toNat ∧
    countOf r.timecode r.fps ≤ 28006905 ∧ r.recount.count.toNat = countOf r.timecode r.fps

/-- R151: `fieldsOf` gives the fields by division, always in the normal ranges, and undoes `countOf` on
every in-range timecode. -/
def Obligations.FieldsOfIsInRangeAndLossless : Prop :=
  ∀ (k : Rate),
    (∀ n : Nat, fieldsOf n k.fps =
        { frame := n % k.fps, second := n / k.fps % 60, minute := n / (k.fps * 60) % 60,
          hour := n / (k.fps * 3600) % 24 } ∧
      (fieldsOf n k.fps).frame < k.fps ∧ (fieldsOf n k.fps).second < 60 ∧
      (fieldsOf n k.fps).minute < 60 ∧ (fieldsOf n k.fps).hour < 24) ∧
    (∀ t : Timecode, t.frame < k.fps → t.second < 60 → t.minute < 60 → t.hour < 24 →
      fieldsOf (countOf t k.fps) k.fps = t)

/-! ## The clock's sets -/

/-- SET_HOUR, SET_MINUTE, SET_SECOND and SET_FRAME store any value verbatim, recompute COUNT from the
four fields without truncation, and change nothing else (R152 to R155). -/
def Obligations.FieldSetsStoreAndRecount : Prop :=
  ∀ (v : Field) (s : State), ∃ cHour cMin cSec cFrm : Count,
    exec (.setHour v) s = .next { s with regs := { s.regs with hour := v, count := cHour },
                                         responses := s.responses ++ [⟨.ok, 0⟩] } ∧
    exec (.setMinute v) s = .next { s with regs := { s.regs with min := v, count := cMin },
                                           responses := s.responses ++ [⟨.ok, 0⟩] } ∧
    exec (.setSecond v) s = .next { s with regs := { s.regs with sec := v, count := cSec },
                                           responses := s.responses ++ [⟨.ok, 0⟩] } ∧
    exec (.setFrame v) s = .next { s with regs := { s.regs with frm := v, count := cFrm },
                                          responses := s.responses ++ [⟨.ok, 0⟩] } ∧
    cHour.toNat = s.regs.frm.toNat + s.regs.fps * s.regs.sec.toNat
      + s.regs.fps * 60 * s.regs.min.toNat + s.regs.fps * 3600 * v.toNat ∧
    cMin.toNat = s.regs.frm.toNat + s.regs.fps * s.regs.sec.toNat
      + s.regs.fps * 60 * v.toNat + s.regs.fps * 3600 * s.regs.hour.toNat ∧
    cSec.toNat = s.regs.frm.toNat + s.regs.fps * v.toNat
      + s.regs.fps * 60 * s.regs.min.toNat + s.regs.fps * 3600 * s.regs.hour.toNat ∧
    cFrm.toNat = v.toNat + s.regs.fps * s.regs.sec.toNat
      + s.regs.fps * 60 * s.regs.min.toNat + s.regs.fps * 3600 * s.regs.hour.toNat

/-- SET_TC stores the four fields verbatim, recomputes COUNT and changes nothing else (R156). -/
def Obligations.SetTcStoresAllFields : Prop :=
  ∀ (h m sec f : Field) (s : State), ∃ c : Count,
    exec (.setTc h m sec f) s =
      .next { s with regs := { s.regs with hour := h, min := m, sec := sec, frm := f, count := c },
                     responses := s.responses ++ [⟨.ok, 0⟩] } ∧
    c.toNat = f.toNat + s.regs.fps * sec.toNat + s.regs.fps * 60 * m.toNat
      + s.regs.fps * 3600 * h.toNat

/-- The four single field sets, in any order, leave the registers SET_TC leaves (R156). -/
def Obligations.SetTcIsTheFourFieldSetsInAnyOrder : Prop :=
  ∀ (h m sec f : Field) (is : List Instr) (s : State),
    List.Perm is [.setHour h, .setMinute m, .setSecond sec, .setFrame f] →
    ∃ t u, execAll is s = .next t ∧ exec (.setTc h m sec f) s = .next u ∧ t.regs = u.regs

/-- SET_COUNT stores COUNT verbatim, sets the fields to the division of the count by the rate with the
hour wrapped, and changes nothing else (R157). -/
def Obligations.SetCountStoresAndDerivesFields : Prop :=
  ∀ (n : Argument) (s : State), ∃ h m sec f : Field,
    exec (.setCount n) s =
      .next { s with regs := { s.regs with count := n, hour := h, min := m, sec := sec, frm := f },
                     responses := s.responses ++ [⟨.ok, 0⟩] } ∧
    f.toNat = n.toNat % s.regs.fps ∧ sec.toNat = n.toNat / s.regs.fps % 60 ∧
    m.toNat = n.toNat / (s.regs.fps * 60) % 60 ∧ h.toNat = n.toNat / (s.regs.fps * 3600) % 24

/-- R158: a field set or a count set never reads or writes DF, IL, CF, UBF, EXT, SFA or UB, and writes only
the fields and COUNT. Two states that agree on the fields and RATE agree after it on the fields and COUNT,
whatever those registers hold, and every other register is unchanged in each. -/
def Obligations.ClockSetsIgnoreTheSwitches : Prop :=
  ∀ (i : Instr),
    ((∃ v, i = .setHour v ∨ i = .setMinute v ∨ i = .setSecond v ∨ i = .setFrame v) ∨
      (∃ h m sec f, i = .setTc h m sec f) ∨ (∃ n, i = .setCount n)) →
    ∀ s u : State,
      (s.regs.hour = u.regs.hour ∧ s.regs.min = u.regs.min ∧ s.regs.sec = u.regs.sec ∧
        s.regs.frm = u.regs.frm ∧ s.regs.rate = u.regs.rate) →
      ∃ h m sec f c,
        exec i s = .next { s with
          regs := { s.regs with hour := h, min := m, sec := sec, frm := f, count := c },
          responses := s.responses ++ [⟨.ok, 0⟩] } ∧
        exec i u = .next { u with
          regs := { u.regs with hour := h, min := m, sec := sec, frm := f, count := c },
          responses := u.responses ++ [⟨.ok, 0⟩] }

/-! ## The rate change -/

/-- SET_RATE to 24, 25 or 30 multiplies COUNT by the new rate before dividing by the old one, keeps the
low 32 bits, re-derives the fields from COUNT at the new rate, and changes nothing else (R160). -/
def Obligations.SetRateRescalesTheCount : Prop :=
  ∀ (r : Argument) (s : State), (r = 24 ∨ r = 25 ∨ r = 30) →
    ∃ (k : Rate) (c : Count) (h m sec f : Field),
      exec (.setRate r) s =
        .next { s with
          regs := { s.regs with rate := k, count := c, hour := h, min := m, sec := sec, frm := f },
          responses := s.responses ++ [⟨.ok, 0⟩] } ∧
      k.fps = r.toNat ∧ c.toNat = s.regs.count.toNat * r.toNat / s.regs.fps % 2 ^ 32 ∧
      f.toNat = c.toNat % r.toNat ∧ sec.toNat = c.toNat / r.toNat % 60 ∧
      m.toNat = c.toNat / (r.toNat * 60) % 60 ∧ h.toNat = c.toNat / (r.toNat * 3600) % 24

/-- SET_RATE with any other number answers BAD_ARG with data 0 and changes no register (R160, R252). -/
def Obligations.SetRateOutsideTheRatesIsBadArg : Prop :=
  ∀ (r : Argument) (s : State), r ≠ 24 → r ≠ 25 → r ≠ 30 →
    exec (.setRate r) s = .next { s with responses := s.responses ++ [⟨.badArg, 0⟩] }

/-- Wall-clock preservation (R161), for a state whose COUNT is the count of its fields: SET_RATE keeps
HOUR, MIN and SEC of an in-range timecode and scales FRM alone. The premise on COUNT is the rule's own
use of `countOf` for COUNT; after a SET_COUNT beyond one day it fails. -/
def Obligations.SetRatePreservesWallClock : Prop :=
  ∀ (r : Argument) (s : State), (r = 24 ∨ r = 25 ∨ r = 30) → s.regs.inRange →
    s.regs.count.toNat = countOf s.regs.timecode s.regs.fps →
    ∃ t, exec (.setRate r) s = .next t ∧ t.regs.hour = s.regs.hour ∧ t.regs.min = s.regs.min ∧
      t.regs.sec = s.regs.sec ∧ t.regs.frm.toNat = s.regs.frm.toNat * r.toNat / s.regs.fps

/-! ## STEP -/

/-- STEP in full (R170 to R173, R175): the four unconditional tests over the naturals, COUNT recomputed,
the drop-frame correction on the fields after the tests with COUNT as `DF_COUNT_SYNC` says, SFA 0, every
other register unchanged, and the response OK. -/
def Obligations.StepAdvancesOneFrame : Prop :=
  ∀ s : State,
    let fps := s.regs.fps
    let f := if fps ≤ s.regs.frm.toNat + 1 then 0 else s.regs.frm.toNat + 1
    let s1 := if fps ≤ s.regs.frm.toNat + 1 then s.regs.sec.toNat + 1 else s.regs.sec.toNat
    let sec := if 59 < s1 then 0 else s1
    let m1 := if 59 < s1 then s.regs.min.toNat + 1 else s.regs.min.toNat
    let m := if 59 < m1 then 0 else m1
    let h1 := if 59 < m1 then s.regs.hour.toNat + 1 else s.regs.hour.toNat
    let h := if 23 < h1 then 0 else h1
    let drops := s.regs.df = true ∧ s.regs.rate = .ntsc ∧ sec = 0 ∧ f = 0 ∧ m % 10 ≠ 0
    ∃ (hour min sec' frm : Field) (count : Count),
      exec .step s =
        .next { s with
          regs := { s.regs with hour := hour, min := min, sec := sec', frm := frm, count := count,
                                sfa := false },
          responses := s.responses ++ [⟨.ok, 0⟩] } ∧
      hour.toNat = h ∧ min.toNat = m ∧ sec'.toNat = sec ∧
      (drops → frm.toNat = 2 ∧
        count.toNat = (if Config.dfCountSync = true then 2 else 0) + fps * sec + fps * 60 * m
          + fps * 3600 * h) ∧
      (¬ drops → frm.toNat = f ∧ count.toNat = f + fps * sec + fps * 60 * m + fps * 3600 * h)

/-- The drop-frame correction for each value of the parameter `DF_COUNT_SYNC` (R172): FRM is 2 in both,
and COUNT counts it exactly when the parameter is true. -/
def Obligations.DropFrameCorrectionForEachParameterValue : Prop :=
  ∀ (sync : Bool) (r : Registers), r.df = true → r.rate = .ntsc →
    (cascade 30 r.timecode).second = 0 → (cascade 30 r.timecode).frame = 0 →
    (cascade 30 r.timecode).minute % 10 ≠ 0 →
    (r.advance sync).frm = 2 ∧
    (r.advance sync).count.toNat + (if sync then 0 else 2) =
      countOf (r.advance sync).timecode 30

/-- After STEP, from any state, every field is in its normal range (R33(b), R171). -/
def Obligations.StepBringsFieldsInRange : Prop :=
  ∀ s : State, ∃ t, exec .step s = .next t ∧ t.regs.inRange

/-- After SET_COUNT and after a legal SET_RATE the same bounds hold (R33(c)). -/
def Obligations.CountAndRateSetsBringFieldsInRange : Prop :=
  ∀ s : State,
    (∀ n, ∃ t, exec (.setCount n) s = .next t ∧ t.regs.inRange) ∧
    (∀ r : Argument, (r = 24 ∨ r = 25 ∨ r = 30) → ∃ t, exec (.setRate r) s = .next t ∧ t.regs.inRange)

/-- Under drop-frame, STEP from an in-range label that is not skipped never lands on a skipped label
(R174(c)). The premise is needed: R175's own example, a skipped label set directly, steps to one (log
entry 6). -/
def Obligations.StepNeverLandsOnASkippedLabel : Prop :=
  ∀ s : State, s.regs.df = true → s.regs.rate = .ntsc → s.regs.inRange → ¬ s.regs.onSkippedLabel →
    ∃ t, exec .step s = .next t ∧ ¬ t.regs.onSkippedLabel

/-- Without the drop-frame correction, any number of STEPs from an in-range timecode moves the fields on
by that many frames of a 24-hour clock, and COUNT is then the count of the fields (R174(a)). -/
def Obligations.StepsAdvanceTheClock : Prop :=
  ∀ (k : Nat) (s : State), s.regs.inRange → ¬ (s.regs.df = true ∧ s.regs.rate = .ntsc) →
    ∃ t, execAll (List.replicate (k + 1) .step) s = .next t ∧
      t.regs.timecode = fieldsOf (countOf s.regs.timecode s.regs.fps + (k + 1)) s.regs.fps ∧
      t.regs.count.toNat =
        (countOf s.regs.timecode s.regs.fps + (k + 1)) % (s.regs.fps * 86400)

/-- Without the drop-frame correction, STEPs from 00:00:00:00 return to it exactly every `fps()*86400`
STEPs, and COUNT is then 0 (R174(a)). -/
def Obligations.DayWrapsExactly : Prop :=
  ∀ (k : Nat) (s : State), s.regs.timecode = ⟨0, 0, 0, 0⟩ →
    ¬ (s.regs.df = true ∧ s.regs.rate = .ntsc) →
    ∃ t, execAll (List.replicate (k + 1) .step) s = .next t ∧
      (t.regs.timecode = ⟨0, 0, 0, 0⟩ ↔ s.regs.fps * 86400 ∣ k + 1) ∧
      (t.regs.timecode = ⟨0, 0, 0, 0⟩ → t.regs.count = 0)

/-- Under drop-frame, 17982 STEPs from the start of a ten-minute block reach the start of the next one
(R174(b)). -/
def Obligations.DropFrameTenMinuteCycle : Prop :=
  ∀ s : State, s.regs.df = true → s.regs.rate = .ntsc → s.regs.inRange →
    s.regs.min.toNat % 10 = 0 → s.regs.sec = 0 → s.regs.frm = 0 →
    ∃ t, execAll (List.replicate 17982 .step) s = .next t ∧
      t.regs.timecode =
        { hour := (s.regs.hour.toNat + (s.regs.min.toNat + 10) / 60) % 24
          minute := (s.regs.min.toNat + 10) % 60
          second := 0
          frame := 0 }

/-- Under drop-frame, STEPs from 00:00:00:00 first return to it after 2589408 of them, so that a day is
2589408 STEPs (R174(b)). -/
def Obligations.DropFrameDay : Prop :=
  ∀ s : State, s.regs.df = true → s.regs.rate = .ntsc → s.regs.timecode = ⟨0, 0, 0, 0⟩ →
    (∃ t, execAll (List.replicate 2589408 .step) s = .next t ∧ t.regs.timecode = ⟨0, 0, 0, 0⟩) ∧
    ∀ k, 0 < k → k < 2589408 →
      ∃ u, execAll (List.replicate k .step) s = .next u ∧ u.regs.timecode ≠ ⟨0, 0, 0, 0⟩

/-! ## The supervisor's commands -/

/-- NOP answers OK with data 0 and changes nothing (R211). -/
def Obligations.NopDoesNothing : Prop :=
  ∀ s : State, exec .nop s = .next { s with responses := s.responses ++ [⟨.ok, 0⟩] }

/-- SWITCH_FIELD toggles SFA when IL is set and is a no-op that answers OK otherwise (R205). -/
def Obligations.SwitchFieldTogglesWhenInterlaced : Prop :=
  ∀ s : State,
    (s.regs.il = true → exec .switchField s =
      .next { s with regs := { s.regs with sfa := !s.regs.sfa },
                     responses := s.responses ++ [⟨.ok, 0⟩] }) ∧
    (s.regs.il = false → exec .switchField s =
      .next { s with responses := s.responses ++ [⟨.ok, 0⟩] })

/-- SET_FLAGS writes DF, IL, CF, UBF and EXT together and nothing else; SFA stays (R204). -/
def Obligations.SetFlagsWritesTheFiveSwitches : Prop :=
  ∀ (df il cf ubf ext : Bool) (s : State),
    exec (.setFlags df il cf ubf ext) s =
      .next { s with
        regs := { s.regs with df := df, il := il, cf := cf, ubf := ubf, ext := ext },
        responses := s.responses ++ [⟨.ok, 0⟩] }

/-- SET_UB writes UB, CLEAR_UB zeroes it and equals `SET_UB 0`; neither changes anything else (R206,
R207). -/
def Obligations.UserBitsAreSetAndCleared : Prop :=
  ∀ (n : Argument) (s : State),
    exec (.setUb n) s = .next { s with regs := { s.regs with ub := n },
                                       responses := s.responses ++ [⟨.ok, 0⟩] } ∧
    exec .clearUb s = .next { s with regs := { s.regs with ub := 0 },
                                     responses := s.responses ++ [⟨.ok, 0⟩] } ∧
    exec .clearUb s = exec (.setUb 0) s

/-- READ_TC returns the four fields as stored, HOUR in bits 31:24 down to FRM in 7:0 and 0 above, and
changes nothing (R37, R208). -/
def Obligations.ReadTcReturnsTheFields : Prop :=
  ∀ s : State, ∃ d : Line,
    exec .readTc s = .next { s with responses := s.responses ++ [⟨.ok, d⟩] } ∧
    d.toNat = s.regs.hour.toNat * 2 ^ 24 + s.regs.min.toNat * 2 ^ 16 + s.regs.sec.toNat * 2 ^ 8
      + s.regs.frm.toNat

/-- READ_COUNT returns COUNT, 0 above bit 31, and changes nothing (R209). -/
def Obligations.ReadCountReturnsTheCount : Prop :=
  ∀ s : State, ∃ d : Line,
    exec .readCount s = .next { s with responses := s.responses ++ [⟨.ok, d⟩] } ∧
    d.toNat = s.regs.count.toNat

/-- READ_STATUS returns the status word, every bit not listed 0, and changes nothing (R35, R210). -/
def Obligations.ReadStatusReturnsTheStatusWord : Prop :=
  ∀ s : State, ∃ d : Line,
    exec .readStatus s = .next { s with responses := s.responses ++ [⟨.ok, d⟩] } ∧
    d.toNat = s.regs.df.toNat + 2 * s.regs.il.toNat + 4 * s.regs.cf.toNat + 8 * s.regs.ubf.toNat
      + 16 * s.regs.ext.toNat + 32 * s.regs.sfa.toNat
      + 256 * (match s.regs.rate with | .film => 24 | .pal => 25 | .ntsc => 30)

/-! ## The line -/

/-- GENERATE changes no register and returns a line whose bits 0 to 81 are those of the complete bit map
(R107), with the flag bits of R201. -/
def Obligations.GenerateFollowsTheBitMap : Prop :=
  ∀ s : State, ∃ l : Line,
    exec .generate s = .next { s with responses := s.responses ++ [⟨.ok, l⟩] } ∧
    (∀ g, g < 9 → l.getLsbD (10 * g) = true ∧ l.getLsbD (10 * g + 1) = false) ∧
    (∀ i, i < 4 →
      l.getLsbD (2 + i) = (s.regs.frm.toNat % 10).testBit i ∧
      l.getLsbD (22 + i) = (s.regs.sec.toNat % 10).testBit i ∧
      l.getLsbD (42 + i) = (s.regs.min.toNat % 10).testBit i ∧
      l.getLsbD (62 + i) = (s.regs.hour.toNat % 10).testBit i) ∧
    (∀ i, i < 2 →
      l.getLsbD (12 + i) = (s.regs.frm.toNat / 10).testBit i ∧
      l.getLsbD (72 + i) = (s.regs.hour.toNat / 10).testBit i) ∧
    (∀ i, i < 3 →
      l.getLsbD (32 + i) = (s.regs.sec.toNat / 10).testBit i ∧
      l.getLsbD (52 + i) = (s.regs.min.toNat / 10).testBit i) ∧
    (∀ k i, k < 8 → i < 4 → l.getLsbD (10 * k + 6 + i) = s.regs.ub.getLsbD (4 * k + i)) ∧
    l.getLsbD 14 = (s.regs.df && decide (s.regs.rate = .ntsc)) ∧
    l.getLsbD 15 = s.regs.cf ∧
    l.getLsbD 35 = (s.regs.sfa && decide (s.regs.rate = .ntsc)) ∧
    l.getLsbD 55 = s.regs.ubf ∧
    l.getLsbD 74 = s.regs.ext ∧
    l.getLsbD 75 = (s.regs.sfa && decide (s.regs.rate = .pal))

/-- R130, R132: the checksum stage leaves bits 0 to 81 alone and sets each of bits 82 to 89 to the parity
of its residue class modulo 8, for every 90-bit input; the listed parity sets are those classes. -/
def Obligations.ChecksumSetsTheParities : Prop :=
  (∀ i ∈ List.range' 82 8, paritySet i = (List.range 82).filter fun j => j % 8 == i % 8) ∧
  ∀ p : Line,
    (∀ i, i < 82 → (checksum p).getLsbD i = p.getLsbD i) ∧
    (∀ i, 82 ≤ i → i < 90 → (checksum p).getLsbD i = classParity 82 (i % 8) p)

/-- R133: in every generated line each residue class modulo 8 of all 90 bits has even parity. -/
def Obligations.WholeLineParityIsEven : Prop :=
  ∀ s : State, ∃ l : Line,
    exec .generate s = .next { s with responses := s.responses ++ [⟨.ok, l⟩] } ∧
    ∀ c, c < 8 → classParity 90 c l = false

/-- R135: flipping one pre-checksum bit flips exactly one checksum bit, the one of its residue class; two
lines that differ only in SFA under PAL differ in exactly bits 75 and 83. -/
def Obligations.ChecksumIsLinear : Prop :=
  (∀ (p : Line) (j : Nat), j ≤ 81 → ∀ i, 82 ≤ i → i < 90 →
    (checksum (p ^^^ BitVec.twoPow 90 j)).getLsbD i =
      xor ((checksum p).getLsbD i) (decide (i % 8 = j % 8))) ∧
  (∀ r : Registers, r.rate = .pal → ∀ i, i < 90 →
    ({ r with sfa := true }.line.getLsbD i ≠ { r with sfa := false }.line.getLsbD i ↔
      i = 75 ∨ i = 83))

/-- R136: recomputing the checksum of a generated line gives the line. -/
def Obligations.ChecksumOfAGeneratedLineIsItself : Prop :=
  ∀ s : State, ∃ l : Line,
    exec .generate s = .next { s with responses := s.responses ++ [⟨.ok, l⟩] } ∧ checksum l = l

/-- R109: for every timecode with `f < 30`, `s, m < 60` and `h < 24` the digit fields of the generated line, read as tens and units,
give the four fields back. -/
def Obligations.DigitsOfTheLineGiveTheFields : Prop :=
  ∀ s : State, s.regs.frm.toNat < 30 → s.regs.sec.toNat < 60 → s.regs.min.toNat < 60 →
    s.regs.hour.toNat < 24 → ∃ l : Line,
    exec .generate s = .next { s with responses := s.responses ++ [⟨.ok, l⟩] } ∧
    lineField l 12 2 * 10 + lineField l 2 4 = s.regs.frm.toNat ∧
    lineField l 32 3 * 10 + lineField l 22 4 = s.regs.sec.toNat ∧
    lineField l 52 3 * 10 + lineField l 42 4 = s.regs.min.toNat ∧
    lineField l 72 2 * 10 + lineField l 62 4 = s.regs.hour.toNat

/-- The truncation corner of R102 and R108: whatever the fields hold, the digit fields of the line are the
units digit and the low bits of the full tens quotient. -/
def Obligations.DigitsAreTruncatedToTheirWidths : Prop :=
  ∀ s : State, ∃ l : Line,
    exec .generate s = .next { s with responses := s.responses ++ [⟨.ok, l⟩] } ∧
    lineField l 2 4 = s.regs.frm.toNat % 10 ∧ lineField l 12 2 = s.regs.frm.toNat / 10 % 4 ∧
    lineField l 22 4 = s.regs.sec.toNat % 10 ∧ lineField l 32 3 = s.regs.sec.toNat / 10 % 8 ∧
    lineField l 42 4 = s.regs.min.toNat % 10 ∧ lineField l 52 3 = s.regs.min.toNat / 10 % 8 ∧
    lineField l 62 4 = s.regs.hour.toNat % 10 ∧ lineField l 72 2 = s.regs.hour.toNat / 10 % 4

/-- R111: line bit `10k+6+i` of a generated line is `UB[4k+i]`, whatever the other registers hold, so that
reassembling the eight nibbles gives UB back exactly. -/
def Obligations.UserBitsOfTheLineGiveTheRegister : Prop :=
  ∀ s : State, ∃ l : Line,
    exec .generate s = .next { s with responses := s.responses ++ [⟨.ok, l⟩] } ∧
    (∀ k i, k < 8 → i < 4 → l.getLsbD (10 * k + 6 + i) = s.regs.ub.getLsbD (4 * k + i)) ∧
    l.extractLsb' 76 4 ++ l.extractLsb' 66 4 ++ l.extractLsb' 56 4 ++ l.extractLsb' 46 4
      ++ l.extractLsb' 36 4 ++ l.extractLsb' 26 4 ++ l.extractLsb' 16 4 ++ l.extractLsb' 6 4
      = s.regs.ub

/-- The host's packing of four payload bytes (R59): the event is SET_UB of `b0 | b1<<8 | b2<<16 | b3<<24`,
and after it nibbles 2i and 2i+1 of the line are the low and the high half of byte i. -/
def Obligations.PayloadBytesComeBackFromTheLine : Prop :=
  ∀ (b0 b1 b2 b3 : Byte) (s : State), ∃ (n : Argument) (t : State) (l : Line),
    (HostEvent.setUserBits b0 b1 b2 b3).command = .setUb n ∧
    n.toNat = b0.toNat + b1.toNat * 2 ^ 8 + b2.toNat * 2 ^ 16 + b3.toNat * 2 ^ 24 ∧
    execAll [(HostEvent.setUserBits b0 b1 b2 b3).command, .generate] s = .next t ∧
    t.responses = s.responses ++ [⟨.ok, 0⟩, ⟨.ok, l⟩] ∧
    l.extractLsb' 16 4 ++ l.extractLsb' 6 4 = b0 ∧ l.extractLsb' 36 4 ++ l.extractLsb' 26 4 = b1 ∧
    l.extractLsb' 56 4 ++ l.extractLsb' 46 4 = b2 ∧ l.extractLsb' 76 4 ++ l.extractLsb' 66 4 = b3

/-- GENERATE reads only the registers R200 lists: not IL, not COUNT, and (R29) not SFA at RATE 24. Two
states that agree on them give the same response. -/
def Obligations.GenerateReadsOnlyItsRegisters : Prop :=
  ∀ s u : State,
    (s.regs.hour = u.regs.hour ∧ s.regs.min = u.regs.min ∧ s.regs.sec = u.regs.sec ∧
      s.regs.frm = u.regs.frm ∧ s.regs.rate = u.regs.rate ∧ s.regs.df = u.regs.df ∧
      s.regs.cf = u.regs.cf ∧ s.regs.ubf = u.regs.ubf ∧ s.regs.ext = u.regs.ext ∧
      s.regs.ub = u.regs.ub ∧ (s.regs.rate = .film ∨ s.regs.sfa = u.regs.sfa)) →
    ∃ l : Line,
      exec .generate s = .next { s with responses := s.responses ++ [⟨.ok, l⟩] } ∧
      exec .generate u = .next { u with responses := u.responses ++ [⟨.ok, l⟩] }

/-- Two GENERATEs with nothing between them return the same data (R202). -/
def Obligations.GenerateIsIdempotent : Prop :=
  ∀ s : State, ∃ l : Line,
    execAll [.generate, .generate] s =
      .next { s with responses := s.responses ++ [⟨.ok, l⟩, ⟨.ok, l⟩] }

/-- The two fields of one interlaced PAL frame (R135, R205): GENERATE, SWITCH_FIELD, GENERATE from the
first field gives two lines that differ in bits 75 and 83 only. -/
def Obligations.PalFieldsDifferInTwoBits : Prop :=
  ∀ s : State, s.regs.rate = .pal → s.regs.il = true → s.regs.sfa = false →
    ∃ (t : State) (l m : Line),
      execAll fields2 s = .next t ∧
      t.responses = s.responses ++ [⟨.ok, l⟩, ⟨.ok, 0⟩, ⟨.ok, m⟩] ∧
      l.getLsbD 75 = false ∧ m.getLsbD 75 = true ∧
      ∀ i, i < 90 → (l.getLsbD i ≠ m.getLsbD i ↔ i = 75 ∨ i = 83)

/-- The serial form of a line (R52, R212): 90 bytes in index order, 0xFF for a 1 and 0x00 for a 0. -/
def Obligations.ByteStreamSerialisesTheLine : Prop :=
  ∀ l : Line, (byteStream l).length = 90 ∧
    ∀ i, i < 90 → (byteStream l)[i]? = some (if l.getLsbD i = true then 0xFF else 0x00)

/-! ## Rules over all commands -/

/-- R21, column "written by", and R33(d): a command changes a register only if it is one of that
register's writers. -/
def Obligations.OnlyItsWritersChangeARegister : Prop :=
  ∀ (i : Instr) (s t : State), exec i s = .next t →
    let clock := (∃ h m sec f, i = .setTc h m sec f) ∨ (∃ n, i = .setCount n) ∨
      (∃ r, i = .setRate r) ∨ i = .step
    (t.regs.hour ≠ s.regs.hour → clock ∨ ∃ v, i = .setHour v) ∧
    (t.regs.min ≠ s.regs.min → clock ∨ ∃ v, i = .setMinute v) ∧
    (t.regs.sec ≠ s.regs.sec → clock ∨ ∃ v, i = .setSecond v) ∧
    (t.regs.frm ≠ s.regs.frm → clock ∨ ∃ v, i = .setFrame v) ∧
    (t.regs.count ≠ s.regs.count → clock ∨
      ∃ v, i = .setHour v ∨ i = .setMinute v ∨ i = .setSecond v ∨ i = .setFrame v) ∧
    (t.regs.rate ≠ s.regs.rate → ∃ r, i = .setRate r) ∧
    (t.regs.df ≠ s.regs.df ∨ t.regs.il ≠ s.regs.il ∨ t.regs.cf ≠ s.regs.cf ∨
        t.regs.ubf ≠ s.regs.ubf ∨ t.regs.ext ≠ s.regs.ext →
      ∃ df il cf ubf ext, i = .setFlags df il cf ubf ext) ∧
    (t.regs.sfa ≠ s.regs.sfa → i = .step ∨ i = .switchField) ∧
    (t.regs.ub ≠ s.regs.ub → i = .clearUb ∨ ∃ n, i = .setUb n)

/-- R213: STEP leads to first-field-ready; SWITCH_FIELD toggles the phase when IL is set; every other
command leaves the phase. -/
def Obligations.PhaseFollowsTheTable : Prop :=
  ∀ (i : Instr) (s : State), ∃ t, exec i s = .next t ∧
    t.regs.phase =
      if i = .step then .firstFieldReady
      else if i = .switchField ∧ s.regs.il = true then
        (if s.regs.phase = .firstFieldReady then .secondFieldReady else .firstFieldReady)
      else s.regs.phase

/-! ## Invariants -/

/-- COUNT tracks the fields at reset (R24, R34). -/
def Obligations.CountTracksFieldsAtReset : Prop :=
  State.reset.regs.countTracksFields Config.dfCountSync

/-- Every step keeps the two views of the clock in agreement modulo a day, up to the one stale view that
R24 allows: `DF_COUNT_SYNC` false, RATE 30, a label mm:00:02 with mm no multiple of ten, and COUNT 2 below
its count (R24, R172). STEP gives the agreement, or that view, for each value of the parameter (log entry 2)
and from any registers. That a step that asserts reset leaves the registers alone, so that the agreement
is claimed while reset is asserted too, is the model's choice (log entry 4). -/
def Obligations.CountTracksFieldsIsKept : Prop :=
  (∀ s t : State, s.regs.countTracksFields Config.dfCountSync → step s = .next t →
    t.regs.countTracksFields Config.dfCountSync) ∧
  ∀ (sync : Bool) (r : Registers), (r.advance sync).countTracksFields sync

/-- At reset no response has been given (R270, R277). The list of the responses given is the model's own
field (log entry 5). -/
def Obligations.NoResponseAtReset : Prop := State.reset.responses = []

/-- Every response has its legal form, no data without OK (R72): at reset, and after every step from a state
in which it holds. Responses already given are never changed (R57). The list of the responses given is the
model's own field (log entry 5). -/
def Obligations.ResponsesStayLegal : Prop :=
  State.reset.responsesLegal ∧
  ∀ s t : State, s.responsesLegal → step s = .next t →
    t.responsesLegal ∧ s.responses <+: t.responses
end

