-- ==== Sys2Proof/Laws/State.lean ====
section
/-! SUPPORT. One lemma per field per update of the registers and of the state, so that no later proof
unfolds a record update. -/

namespace Sys2Proof.Machine

variable (r : Registers) (t : Timecode) (s : State) (st : Status) (d : Line) (b : Bool) (k : Rate)
  (w : CommandWord)

@[simp] theorem storeTimecode_hour : (r.storeTimecode t).hour = BitVec.ofNat 8 t.hour := rfl
@[simp] theorem storeTimecode_min : (r.storeTimecode t).min = BitVec.ofNat 8 t.minute := rfl
@[simp] theorem storeTimecode_sec : (r.storeTimecode t).sec = BitVec.ofNat 8 t.second := rfl
@[simp] theorem storeTimecode_frm : (r.storeTimecode t).frm = BitVec.ofNat 8 t.frame := rfl
@[simp] theorem storeTimecode_count : (r.storeTimecode t).count = r.count := rfl
@[simp] theorem storeTimecode_rate : (r.storeTimecode t).rate = r.rate := rfl
@[simp] theorem storeTimecode_df : (r.storeTimecode t).df = r.df := rfl
@[simp] theorem storeTimecode_il : (r.storeTimecode t).il = r.il := rfl
@[simp] theorem storeTimecode_cf : (r.storeTimecode t).cf = r.cf := rfl
@[simp] theorem storeTimecode_ubf : (r.storeTimecode t).ubf = r.ubf := rfl
@[simp] theorem storeTimecode_ext : (r.storeTimecode t).ext = r.ext := rfl
@[simp] theorem storeTimecode_sfa : (r.storeTimecode t).sfa = r.sfa := rfl
@[simp] theorem storeTimecode_ub : (r.storeTimecode t).ub = r.ub := rfl

@[simp] theorem recount_hour : r.recount.hour = r.hour := rfl
@[simp] theorem recount_min : r.recount.min = r.min := rfl
@[simp] theorem recount_sec : r.recount.sec = r.sec := rfl
@[simp] theorem recount_frm : r.recount.frm = r.frm := rfl
@[simp] theorem recount_count : r.recount.count = r.fieldCount := rfl
@[simp] theorem recount_rate : r.recount.rate = r.rate := rfl
@[simp] theorem recount_df : r.recount.df = r.df := rfl
@[simp] theorem recount_il : r.recount.il = r.il := rfl
@[simp] theorem recount_cf : r.recount.cf = r.cf := rfl
@[simp] theorem recount_ubf : r.recount.ubf = r.ubf := rfl
@[simp] theorem recount_ext : r.recount.ext = r.ext := rfl
@[simp] theorem recount_sfa : r.recount.sfa = r.sfa := rfl
@[simp] theorem recount_ub : r.recount.ub = r.ub := rfl

@[simp] theorem rederive_count : r.rederive.count = r.count := rfl
@[simp] theorem rederive_rate : r.rederive.rate = r.rate := rfl
@[simp] theorem rederive_df : r.rederive.df = r.df := rfl
@[simp] theorem rederive_il : r.rederive.il = r.il := rfl
@[simp] theorem rederive_cf : r.rederive.cf = r.cf := rfl
@[simp] theorem rederive_ubf : r.rederive.ubf = r.ubf := rfl
@[simp] theorem rederive_ext : r.rederive.ext = r.ext := rfl
@[simp] theorem rederive_sfa : r.rederive.sfa = r.sfa := rfl
@[simp] theorem rederive_ub : r.rederive.ub = r.ub := rfl

@[simp] theorem correctDropFrame_hour : (r.correctDropFrame b).hour = r.hour := rfl
@[simp] theorem correctDropFrame_min : (r.correctDropFrame b).min = r.min := rfl
@[simp] theorem correctDropFrame_sec : (r.correctDropFrame b).sec = r.sec := rfl
@[simp] theorem correctDropFrame_rate : (r.correctDropFrame b).rate = r.rate := rfl
@[simp] theorem correctDropFrame_df : (r.correctDropFrame b).df = r.df := rfl
@[simp] theorem correctDropFrame_il : (r.correctDropFrame b).il = r.il := rfl
@[simp] theorem correctDropFrame_cf : (r.correctDropFrame b).cf = r.cf := rfl
@[simp] theorem correctDropFrame_ubf : (r.correctDropFrame b).ubf = r.ubf := rfl
@[simp] theorem correctDropFrame_ext : (r.correctDropFrame b).ext = r.ext := rfl
@[simp] theorem correctDropFrame_sfa : (r.correctDropFrame b).sfa = r.sfa := rfl
@[simp] theorem correctDropFrame_ub : (r.correctDropFrame b).ub = r.ub := rfl
@[simp] theorem correctDropFrame_frm : (r.correctDropFrame b).frm = 2 := rfl

@[simp] theorem advance_df : (r.advance b).df = r.df := by
  unfold Registers.advance; dsimp only; split <;> rfl
@[simp] theorem advance_il : (r.advance b).il = r.il := by
  unfold Registers.advance; dsimp only; split <;> rfl
@[simp] theorem advance_cf : (r.advance b).cf = r.cf := by
  unfold Registers.advance; dsimp only; split <;> rfl
@[simp] theorem advance_ubf : (r.advance b).ubf = r.ubf := by
  unfold Registers.advance; dsimp only; split <;> rfl
@[simp] theorem advance_ext : (r.advance b).ext = r.ext := by
  unfold Registers.advance; dsimp only; split <;> rfl
@[simp] theorem advance_ub : (r.advance b).ub = r.ub := by
  unfold Registers.advance; dsimp only; split <;> rfl
@[simp] theorem advance_rate : (r.advance b).rate = r.rate := by
  unfold Registers.advance; dsimp only; split <;> rfl
@[simp] theorem advance_sfa : (r.advance b).sfa = false := rfl

@[simp] theorem changeRate_df : (r.changeRate k).df = r.df := rfl
@[simp] theorem changeRate_il : (r.changeRate k).il = r.il := rfl
@[simp] theorem changeRate_cf : (r.changeRate k).cf = r.cf := rfl
@[simp] theorem changeRate_ubf : (r.changeRate k).ubf = r.ubf := rfl
@[simp] theorem changeRate_ext : (r.changeRate k).ext = r.ext := rfl
@[simp] theorem changeRate_sfa : (r.changeRate k).sfa = r.sfa := rfl
@[simp] theorem changeRate_ub : (r.changeRate k).ub = r.ub := rfl
@[simp] theorem changeRate_rate : (r.changeRate k).rate = k := rfl

@[simp] theorem storeTimecode_fps : (r.storeTimecode t).fps = r.fps := rfl
@[simp] theorem recount_fps : r.recount.fps = r.fps := rfl
@[simp] theorem recount_timecode : r.recount.timecode = r.timecode := rfl
@[simp] theorem rederive_fps : r.rederive.fps = r.fps := rfl

@[simp] theorem respond_regs : (s.respond st d).regs = s.regs := rfl
@[simp] theorem respond_host : (s.respond st d).host = s.host := rfl
@[simp] theorem respond_resetLine : (s.respond st d).resetLine = s.resetLine := rfl
@[simp] theorem respond_responses : (s.respond st d).responses = s.responses ++ [⟨st, d⟩] := rfl
@[simp] theorem presentNext_regs : (presentNext w s).regs = s.regs := rfl
@[simp] theorem presentNext_host : (presentNext w s).host = .command w :: s.host := rfl
@[simp] theorem presentNext_responses : (presentNext w s).responses = s.responses := rfl
@[simp] theorem presentNext_resetLine : (presentNext w s).resetLine = false := rfl
@[simp] theorem releaseReset_host : (releaseReset s).host = s.host := rfl
@[simp] theorem releaseReset_responses : (releaseReset s).responses = s.responses := rfl
@[simp] theorem releaseReset_resetLine : (releaseReset s).resetLine = false := rfl

end Sys2Proof.Machine
end

