-- ==== Sys2Proof/Laws/Line.lean ====
section
/-! SUPPORT. The bits of the line operations: one lemma per operation, giving bit `i` of its result. -/

namespace Sys2Proof.Machine

@[simp] theorem getLsbD_lineOfBits (p : LineBits) (i : Nat) :
    (lineOfBits p).getLsbD i = if i < 90 then p i else false := by
  simp only [lineOfBits, BitVec.getLsbD_ofFnLE]
  split <;> rfl

theorem put_apply (base value width : Nat) (p : LineBits) (i : Nat) :
    put base value width p i =
      if base ≤ i ∧ i < base + width then value.testBit (i - base) else p i := rfl

theorem putBit_apply (index : Nat) (b : Bool) (p : LineBits) (i : Nat) :
    putBit index b p i = if i = index then b else p i := rfl

theorem testBit_userNibble (ub : UserWord) (k : Nat) {j : Nat} (hj : j < 4) :
    (userNibble ub k).toNat.testBit j = ub.getLsbD (4 * k + j) := by
  rw [BitVec.testBit_toNat, userNibble, BitVec.getLsbD_extractLsb']
  simp [hj]

/-- The first `n` user-bit slots: bit `10k+6+j` becomes bit `4k+j` of the user word. -/
theorem putNibbles_apply (ub : UserWord) (p : LineBits) (i n : Nat) :
    (List.range n).foldl (fun q k => put (10 * k + 6) (userNibble ub k).toNat 4 q) p i =
      if i < 10 * n ∧ 6 ≤ i % 10 then ub.getLsbD (4 * (i / 10) + (i % 10 - 6)) else p i := by
  induction n with
  | zero => simp
  | succ n ih =>
    rw [List.range_succ, List.foldl_append, List.foldl_cons, List.foldl_nil, put_apply, ih]
    by_cases hin : 10 * n + 6 ≤ i ∧ i < 10 * n + 6 + 4
    · rw [if_pos hin, if_pos (by omega), testBit_userNibble ub n (by omega)]
      congr 1
      omega
    · rw [if_neg hin]
      by_cases hlt : i < 10 * n ∧ 6 ≤ i % 10
      · rw [if_pos hlt, if_pos (by omega)]
      · rw [if_neg hlt, if_neg (by omega)]

/-- The user-bit slots (R105): bit `10k+6+j` of the line is bit `4k+j` of the user word, and no other
bit is touched. -/
theorem putUserBits_apply (ub : UserWord) (p : LineBits) (i : Nat) :
    putUserBits ub p i =
      if i < 80 ∧ 6 ≤ i % 10 then ub.getLsbD (4 * (i / 10) + (i % 10 - 6)) else p i :=
  putNibbles_apply ub p i 8

/-- Bit `i` of the layout (R112). -/
theorem getLsbD_layout (t : Timecode) (fl : LineFlags) (ub : UserWord) {i : Nat} (hi : i < 90) :
    (layout t fl ub).getLsbD i =
      if i < 80 ∧ 6 ≤ i % 10 then ub.getLsbD (4 * (i / 10) + (i % 10 - 6))
      else putFlags fl (putDigits t syncBits) i := by
  rw [layout, getLsbD_lineOfBits, if_pos hi, putUserBits_apply]

/-- Bit `i` of the checksummed line (R130). -/
theorem getLsbD_checksum (p : Line) {i : Nat} (hi : i < 90) :
    (checksum p).getLsbD i =
      if 82 ≤ i then parityOver (paritySet i) p else p.getLsbD i := by
  rw [checksum, getLsbD_lineOfBits, if_pos hi]

end Sys2Proof.Machine
end

