-- ==== Sys2Proof/Laws/Ops.lean ====
section
/-! SUPPORT. What each shared operation can do, said once. -/

namespace Sys2Proof

theorem Rate.fps_pos (k : Rate) : 0 < k.fps := by cases k <;> decide

/-- Every rate kind is one of the three nominal values (R9). -/
theorem Rate.fps_cases (k : Rate) : k.fps = 24 ∨ k.fps = 25 ∨ k.fps = 30 := by cases k <;> simp [Rate.fps]

theorem Rate.ofFps_fps (k : Rate) : Rate.ofFps? k.fps = some k := by cases k <;> rfl

theorem Rate.fps_of_ofFps {n : Nat} {k : Rate} (h : Rate.ofFps? n = some k) : k.fps = n := by
  unfold Rate.ofFps? at h
  split_ifs at h <;> cases h <;> simp_all [Rate.fps]

/-- The opcodes without a row are the reserved ones (R75). -/
theorem opcodeRow_eq_none (opc : Nat) : opcodeRow opc = none ↔ 0x10 < opc := by
  constructor
  · intro h
    by_contra hle
    have : opc ≤ 0x10 := by omega
    interval_cases opc <;> simp [opcodeRow] at h
  · intro h
    unfold opcodeRow
    split <;> first | omega | rfl

/-- What the decoder can answer (R76). -/
theorem decode_cases (w : CommandWord) :
    (opcodeRow (opcodeField w).toNat = none ∧ decode w = .error .badOpcode) ∨
    (∃ form operands, opcodeRow (opcodeField w).toNat = some (form, operands) ∧
      ((form.legal (argField w) = true ∧ decode w = .ok (operands (argField w))) ∨
        (form.legal (argField w) = false ∧ decode w = .error .badArg))) := by
  unfold decode
  split
  next h => exact .inl ⟨h, rfl⟩
  next form operands h =>
    refine .inr ⟨form, operands, h, ?_⟩
    cases hl : form.legal (argField w)
    · exact .inr ⟨rfl, rfl⟩
    · exact .inl ⟨rfl, rfl⟩

end Sys2Proof

namespace Sys2Proof.Machine

theorem complete_eq_next {r : Registers} {d : Line} {s t : State} :
    complete r d s = .next t ↔
      t = { s with regs := r, responses := s.responses ++ [⟨.ok, d⟩] } := by
  simp [complete, State.respond, eq_comm]

theorem raise_eq_next {e : CommandError} {s t : State} :
    raise e s = .next t ↔ t = { s with responses := s.responses ++ [⟨errorStatus e, 0⟩] } := by
  simp [raise, State.respond, eq_comm]

/-- Storing a timecode whose fields fit eight bits loses nothing. -/
theorem storeTimecode_timecode (r : Registers) {t : Timecode} (hh : t.hour < 256)
    (hm : t.minute < 256) (hs : t.second < 256) (hf : t.frame < 256) :
    (r.storeTimecode t).timecode = t := by
  simp [Registers.storeTimecode, Registers.timecode, Nat.mod_eq_of_lt, *]

/-- The four fields of a register file are below 256. -/
theorem timecode_lt (r : Registers) :
    r.timecode.hour < 256 ∧ r.timecode.minute < 256 ∧ r.timecode.second < 256 ∧
      r.timecode.frame < 256 :=
  ⟨r.hour.isLt, r.min.isLt, r.sec.isLt, r.frm.isLt⟩

/-- What the cascade can do: every field ends in its normal range (R171). -/
theorem cascade_bounds {fps : Nat} (hf : 0 < fps) (t : Timecode) :
    (cascade fps t).frame < fps ∧ (cascade fps t).second ≤ 59 ∧ (cascade fps t).minute ≤ 59 ∧
      (cascade fps t).hour ≤ 23 := by
  unfold cascade carryHour carryMinute carrySecond carryFrame
  split_ifs <;> dsimp only at * <;> refine ⟨?_, ?_, ?_, ?_⟩ <;> omega

/-- The four fields after the cascade, each test written out (R170). -/
theorem cascade_eq (fps h m s f : Nat) :
    cascade fps ⟨h, m, s, f⟩ =
      let f1 := if fps ≤ f + 1 then 0 else f + 1
      let s1 := if fps ≤ f + 1 then s + 1 else s
      let s2 := if 59 < s1 then 0 else s1
      let m1 := if 59 < s1 then m + 1 else m
      let m2 := if 59 < m1 then 0 else m1
      let h1 := if 59 < m1 then h + 1 else h
      let h2 := if 23 < h1 then 0 else h1
      ⟨h2, m2, s2, f1⟩ := by
  unfold cascade carryHour carryMinute carrySecond carryFrame
  dsimp only
  split_ifs <;> rfl

/-- The fields `fieldsOf` gives fit the 8-bit registers, so re-deriving stores them exactly (R24, R151). -/
theorem rederive_timecode (r : Registers) : r.rederive.timecode = fieldsOf r.count.toNat r.fps := by
  have hf : r.fps ≤ 30 := by rcases r.rate.fps_cases with h | h | h <;> simp [h]
  refine storeTimecode_timecode r ?_ ?_ ?_ ?_
  · exact lt_trans (Nat.mod_lt _ (by decide)) (by decide)
  · exact lt_trans (Nat.mod_lt _ (by decide)) (by decide)
  · exact lt_trans (Nat.mod_lt _ (by decide)) (by decide)
  · exact lt_trans (Nat.mod_lt _ r.rate.fps_pos) (by omega)

/-- When the drop-frame correction applies (R172). -/
theorem dropsFrames_iff (r : Registers) :
    r.dropsFrames = true ↔
      r.df = true ∧ r.rate = .ntsc ∧ r.sec = 0 ∧ r.frm = 0 ∧ r.min.toNat % 10 ≠ 0 := by
  simp [Registers.dropsFrames, and_assoc]

/-- SET_RATE either finds a rate kind or ends in BadArg (R160). -/
theorem execSetRate_cases (r : Argument) (s : State) :
    (∃ k : Rate, k.fps = r.toNat ∧ execSetRate r s = complete (s.regs.changeRate k) 0 s) ∨
      (Rate.ofFps? r.toNat = none ∧ execSetRate r s = raise .badArg s) := by
  unfold execSetRate
  split
  next h => exact .inr ⟨h, rfl⟩
  next k h => exact .inl ⟨k, Rate.fps_of_ofFps h, rfl⟩

/-- What one action of the host can do (R55, R270). -/
theorem step_cases {s t : State} (h : step s = .next t) :
    (s.host = [] ∧ t = s) ∨
    (∃ w rest, s.host = .command w :: rest ∧ s.resetLine = true ∧ t = s) ∨
    (∃ w i rest, s.host = .command w :: rest ∧ s.resetLine = false ∧ decode w = .ok i ∧
      exec i { s with host := rest } = .next t) ∨
    (∃ w e rest, s.host = .command w :: rest ∧ s.resetLine = false ∧ decode w = .error e ∧
      t = { s with host := rest, responses := s.responses ++ [⟨errorStatus e, 0⟩] }) ∨
    (∃ rest, s.host = .assertReset :: rest ∧ t = { s with host := rest, resetLine := true }) ∨
    (∃ rest, s.host = .releaseReset :: rest ∧ t = releaseReset { s with host := rest }) := by
  unfold step takeHostAction at h
  split at h
  next hh => cases h; exact .inl ⟨hh, rfl⟩
  next w rest hh =>
    split at h
    next hr => cases h; exact .inr (.inl ⟨w, rest, hh, hr, rfl⟩)
    next hr =>
      have hr : s.resetLine = false := by simpa using hr
      unfold runCommand at h
      split at h
      next i hd => exact .inr (.inr (.inl ⟨w, i, rest, hh, hr, hd, h⟩))
      next e hd => exact .inr (.inr (.inr (.inl ⟨w, e, rest, hh, hr, hd, raise_eq_next.1 h⟩)))
  next rest hh => cases h; exact .inr (.inr (.inr (.inr (.inl ⟨rest, hh, rfl⟩))))
  next rest hh => cases h; exact .inr (.inr (.inr (.inr (.inr ⟨rest, hh, rfl⟩))))

/-- A run of one step more, when the first step answers a next state. -/
theorem run_of_step (M : Host.Core) {n : Nat} {s t : M.State} (h : M.step s = .next t) :
    M.run (n + 1) s = M.run n t := by
  rw [show n + 1 = Nat.succ n from rfl, Host.Core.run.eq_2, h]

end Sys2Proof.Machine
end

