-- ==== Sys2Proof/Laws/PerInstr.lean ====
section
/-! SUPPORT. The per-instruction family `EncodedFields`: the two fields of a command's encoding are its
opcode and its argument (R70), and its opcode has a row in the map (R74). -/

namespace Sys2Proof.Laws.EncodedFields

/-- The fields of the encoding of `i`, and the row of its opcode. -/
def Statement (i : Instr) : Prop :=
  opcodeField (encode i) = i.opcode ∧ argField (encode i) = i.argument ∧
    (opcodeRow i.opcode.toNat).isSome = true

theorem opcodeField_commandWord (o : BitVec 8) (a : Argument) :
    opcodeField (commandWord o a) = o := by
  simp only [opcodeField, commandWord]
  exact BitVec.extractLsb'_append_eq_left

theorem argField_commandWord (o : BitVec 8) (a : Argument) : argField (commandWord o a) = a := by
  simp only [argField, commandWord]
  exact BitVec.extractLsb'_append_eq_right

theorem nop : Statement .nop :=
  ⟨opcodeField_commandWord _ _, argField_commandWord _ _, rfl⟩
theorem setHour (v : Field) : Statement (.setHour v) :=
  ⟨opcodeField_commandWord _ _, argField_commandWord _ _, rfl⟩
theorem setMinute (v : Field) : Statement (.setMinute v) :=
  ⟨opcodeField_commandWord _ _, argField_commandWord _ _, rfl⟩
theorem setSecond (v : Field) : Statement (.setSecond v) :=
  ⟨opcodeField_commandWord _ _, argField_commandWord _ _, rfl⟩
theorem setFrame (v : Field) : Statement (.setFrame v) :=
  ⟨opcodeField_commandWord _ _, argField_commandWord _ _, rfl⟩
theorem setTc (h : Field) (m : Field) (s : Field) (f : Field) : Statement (.setTc h m s f) :=
  ⟨opcodeField_commandWord _ _, argField_commandWord _ _, rfl⟩
theorem setCount (n : Argument) : Statement (.setCount n) :=
  ⟨opcodeField_commandWord _ _, argField_commandWord _ _, rfl⟩
theorem setRate (r : Argument) : Statement (.setRate r) :=
  ⟨opcodeField_commandWord _ _, argField_commandWord _ _, rfl⟩
theorem step : Statement .step :=
  ⟨opcodeField_commandWord _ _, argField_commandWord _ _, rfl⟩
theorem switchField : Statement .switchField :=
  ⟨opcodeField_commandWord _ _, argField_commandWord _ _, rfl⟩
theorem generate : Statement .generate :=
  ⟨opcodeField_commandWord _ _, argField_commandWord _ _, rfl⟩
theorem setFlags (df : Bool) (il : Bool) (cf : Bool) (ubf : Bool) (ext : Bool) : Statement (.setFlags df il cf ubf ext) :=
  ⟨opcodeField_commandWord _ _, argField_commandWord _ _, rfl⟩
theorem setUb (n : Argument) : Statement (.setUb n) :=
  ⟨opcodeField_commandWord _ _, argField_commandWord _ _, rfl⟩
theorem clearUb : Statement .clearUb :=
  ⟨opcodeField_commandWord _ _, argField_commandWord _ _, rfl⟩
theorem readTc : Statement .readTc :=
  ⟨opcodeField_commandWord _ _, argField_commandWord _ _, rfl⟩
theorem readCount : Statement .readCount :=
  ⟨opcodeField_commandWord _ _, argField_commandWord _ _, rfl⟩
theorem readStatus : Statement .readStatus :=
  ⟨opcodeField_commandWord _ _, argField_commandWord _ _, rfl⟩

end Sys2Proof.Laws.EncodedFields
end

