-- ==== Sys2Proof/Machine/Assembler.lean ====
section
/-! DEFINITION. The assembler syntax (R78) and its pseudo-instructions (R79): from one line of text, as
its characters, to the command words it stands for. White space, letter case and empty lines are a DESIGN
CHOICE, unsafe for claims about text only (log entry 8). -/

namespace Sys2Proof.Asm

/-- The characters before `;`, which starts a comment (R78). -/
def stripComment (cs : List Char) : List Char := cs.takeWhile (· != ';')

/-- The pieces between occurrences of a separator. -/
def splitOn (sep : Char) : List Char → List (List Char)
  | [] => [[]]
  | c :: cs =>
    match splitOn sep cs with
    | [] => [[c]]
    | w :: ws => if c = sep then [] :: w :: ws else (c :: w) :: ws

/-- The words of a line: the nonempty pieces between spaces and tabs. -/
def words (cs : List Char) : List (List Char) :=
  (splitOn ' ' (cs.map fun c => if c = '\t' then ' ' else c)).filter (· != [])

/-- The value of one digit in base 10 or 16. -/
def digit (base : Nat) (c : Char) : Option Nat :=
  let n := c.toNat
  let v :=
    if 48 ≤ n ∧ n ≤ 57 then some (n - 48)
    else if 65 ≤ n ∧ n ≤ 70 then some (n - 55)
    else if 97 ≤ n ∧ n ≤ 102 then some (n - 87)
    else none
  v.filter (· < base)

/-- Reads digits onto the value `acc`. -/
def digits (base : Nat) : List Char → Nat → Option Nat
  | [], acc => some acc
  | c :: cs, acc =>
    match digit base c with
    | some d => digits base cs (acc * base + d)
    | none => none

/-- An unsigned decimal number (R11, R78): at least one digit. -/
def decimal (cs : List Char) : Option Nat := if cs = [] then none else digits 10 cs 0

/-- An unsigned decimal number or `0x` hex (R78). -/
def number : List Char → Option Nat
  | '0' :: 'x' :: cs => if cs = [] then none else digits 16 cs 0
  | cs => decimal cs

/-- A number in range for a width (R78: "in range for the form"). -/
def inWidth (w : Nat) (n : Option Nat) : Option (BitVec w) :=
  (n.filter (· < 2 ^ w)).map (BitVec.ofNat w)

/-- The bit of the flags word a name sets (R36, R78). -/
def flagBit (cs : List Char) : Option Argument :=
  if cs = "DF".toList then some (flagsWord true false false false false)
  else if cs = "IL".toList then some (flagsWord false true false false false)
  else if cs = "CF".toList then some (flagsWord false false true false false)
  else if cs = "UBF".toList then some (flagsWord false false false true false)
  else if cs = "EXT".toList then some (flagsWord false false false false true)
  else none

/-- The `flags` operand (R78): names between `|`, or `0`. -/
def flagsOperand (cs : List Char) : Option Argument :=
  if cs = ['0'] then some 0
  else ((splitOn '|' cs).mapM flagBit).map (·.foldl (· ||| ·) 0)

/-- The `rate` operand (R78): `24`, `25`, `30` or a name. -/
def rateOperand (cs : List Char) : Option Argument :=
  if cs = "24".toList ∨ cs = "FILM".toList then some 24
  else if cs = "25".toList ∨ cs = "PAL".toList then some 25
  else if cs = "30".toList ∨ cs = "NTSC".toList then some 30
  else none

/-- The `tcw` operand (R37, R78): `hh:mm:ss:ff`, four unsigned decimal fields, each 0 to 255. -/
def tcwOperand (cs : List Char) : Option Argument :=
  match (splitOn ':' cs).mapM (fun f => inWidth 8 (decimal f)) with
  | some [h, m, s, f] => some (h ++ m ++ s ++ f)
  | _ => none

/-- ARG from the operand words of a line, by the opcode's form (R71, R78). -/
def operand : Form → List (List Char) → Option Argument
  | .none, [] => some 0
  | .u8, [o] => (inWidth 8 (number o)).map (·.setWidth 32)
  | .u32, [o] => inWidth 32 (number o)
  | .rate, [o] => rateOperand o
  | .tcw, [o] => tcwOperand o
  | .flags, [o] => flagsOperand o
  | _, _ => none

/-- The mnemonics and their opcodes (R74). -/
def mnemonics : List (String × Nat) :=
  [("NOP", 0x00), ("SET_HOUR", 0x01), ("SET_MINUTE", 0x02), ("SET_SECOND", 0x03),
   ("SET_FRAME", 0x04), ("SET_TC", 0x05), ("SET_COUNT", 0x06), ("SET_RATE", 0x07), ("STEP", 0x08),
   ("SWITCH_FIELD", 0x09), ("GENERATE", 0x0A), ("SET_FLAGS", 0x0B), ("SET_UB", 0x0C),
   ("CLEAR_UB", 0x0D), ("READ_TC", 0x0E), ("READ_COUNT", 0x0F), ("READ_STATUS", 0x10)]

/-- One command: `{OPC[7:0], ARG[31:0]}` (R78). -/
def commandLine (mnemonic : List Char) (operands : List (List Char)) : Option CommandWord := do
  let row ← mnemonics.find? (·.1.toList == mnemonic)
  let (form, _) ← opcodeRow row.2
  let arg ← operand form operands
  return commandWord (BitVec.ofNat 8 row.2) arg

/-- A pseudo-instruction and the commands it expands to (R79). -/
def pseudo (mnemonic : List Char) (operands : List (List Char)) : Option (List CommandWord) :=
  if mnemonic = "EV_SETUB".toList then
    match operands with
    | [o] =>
      match (splitOn ',' o).mapM (fun b => inWidth 8 (number b)) with
      | some [b0, b1, b2, b3] => some [encode (Machine.HostEvent.setUserBits b0 b1 b2 b3).command]
      | _ => none
    | _ => none
  else if mnemonic = "EV_SETTC".toList then
    (commandLine "SET_TC".toList operands).map ([·])
  else if mnemonic = "EV_CLEARUB".toList then
    (commandLine "CLEAR_UB".toList operands).map ([·])
  else if mnemonic = "FIELDS2".toList ∧ operands = [] then some (Machine.fields2.map encode)
  else if mnemonic = "NEXT".toList ∧ operands = [] then some (Machine.nextFrame.map encode)
  else none

/-- The command words of one line of assembly (R78, R79): none for a line that is empty or only a
comment, and a refusal (`none`) for a line outside the syntax. -/
def assembleLine (cs : List Char) : Option (List CommandWord) :=
  match words (stripComment cs) with
  | [] => some []
  | m :: os =>
    match commandLine m os with
    | some w => some [w]
    | none => pseudo m os

/-- The command words of a program: its lines in order, refused if one of them is. -/
def assemble (lines : List (List Char)) : Option (List CommandWord) :=
  (lines.mapM assembleLine).map List.flatten

/-- One hex digit, capital. -/
def hexDigit (n : Nat) : Char := if n < 10 then Char.ofNat (48 + n) else Char.ofNat (55 + n)

/-- The `k` low hex digits of a number, most significant first. -/
def hexDigits (k n : Nat) : List Char :=
  ((List.range k).map fun i => hexDigit (n / 16 ^ i % 16)).reverse

/-- A command word written `OO_AAAAAAAA` (R78). -/
def showWord (w : CommandWord) : List Char :=
  hexDigits 2 (opcodeField w).toNat ++ '_' :: hexDigits 8 (argField w).toNat

end Sys2Proof.Asm
end

