-- ==== Sys2Proof/Tests/Slice0.lean ====
section
/-! SUPPORT. Tests. Expected values are those of 95_test_vectors.md or of the rule named; the words of the
decoding tests are written out bit by bit from the encodings of the opcode table. The `witness_` theorems
show, for each statement that has hypotheses, a state and operands that meet them. -/

namespace Sys2Proof.Machine.Tests

/-- Registers at a rate, every other one 0. -/
def zeros (k : Rate) : Registers :=
  ⟨0, 0, 0, 0, 0, k, false, false, false, false, false, false, 0⟩

/-- Registers at a rate with a timecode, and COUNT of its fields. -/
def clockAt (k : Rate) (h m s f : Field) : Registers :=
  { zeros k with hour := h, min := m, sec := s, frm := f }.recount

/-- A state with these registers and nothing presented. -/
def idle (r : Registers) : State := { regs := r, host := [], responses := [], resetLine := false }

/-- A state whose host presents one word. -/
def presenting (w : CommandWord) (r : Registers) : State := { idle r with host := [.command w] }

/-- The state an outcome goes on with. -/
def next? : Host.Outcome State Fault Refusal → Option State
  | .next t => some t
  | .fault _ => none
  | .refused _ => none

/-- The registers after a command on `idle r`. -/
def after (i : Instr) (r : Registers) : Option Registers := (next? (exec i (idle r))).map (·.regs)

/-- The response to a command on `idle r`. -/
def answer (i : Instr) (r : Registers) : Option (List Response) :=
  (next? (exec i (idle r))).map (·.responses)

/-! ## The check of WellFormed refuses an ill-formed command (R71, form `rate`) -/

theorem test_setRate_29_is_ill_formed : (Instr.setRate 29).wellFormed = false := by decide
theorem test_setRate_0_is_ill_formed : (Instr.setRate 0).wellFormed = false := by decide

/-! ## Decoding, one word for each command (R71, R74) -/

theorem test_decode_nop : decode 0b0000000000000000000000000000000000000000 = .ok .nop := by decide
theorem test_decode_setHour :
    decode 0b0000000100000000000000000000000010010110 = .ok (.setHour 150) := by decide
theorem test_decode_setMinute :
    decode 0b0000001000000000000000000000000001001011 = .ok (.setMinute 75) := by decide
theorem test_decode_setSecond :
    decode 0b0000001100000000000000000000000000111011 = .ok (.setSecond 59) := by decide
theorem test_decode_setFrame :
    decode 0b0000010000000000000000000000000000011011 = .ok (.setFrame 27) := by decide
theorem test_decode_setTc :
    decode 0b0000010100000001000000100000001100000100 = .ok (.setTc 1 2 3 4) := by decide
theorem test_decode_setCount :
    decode 0b0000011010000000000000000000000000000101 = .ok (.setCount 0x80000005) := by decide
theorem test_decode_setRate :
    decode 0b0000011100000000000000000000000000011001 = .ok (.setRate 25) := by decide
theorem test_decode_step :
    decode 0b0000100000000000000000000000000000000000 = .ok .step := by decide
theorem test_decode_switchField :
    decode 0b0000100100000000000000000000000000000000 = .ok .switchField := by decide
theorem test_decode_generate :
    decode 0b0000101000000000000000000000000000000000 = .ok .generate := by decide
theorem test_decode_setFlags :
    decode 0b0000101100000000000000000000000000010110 =
      .ok (.setFlags false true true false true) := by decide
theorem test_decode_setUb :
    decode 0b0000110001111000010101100011010000010010 = .ok (.setUb 0x78563412) := by decide
theorem test_decode_clearUb :
    decode 0b0000110100000000000000000000000000000000 = .ok .clearUb := by decide
theorem test_decode_readTc :
    decode 0b0000111000000000000000000000000000000000 = .ok .readTc := by decide
theorem test_decode_readCount :
    decode 0b0000111100000000000000000000000000000000 = .ok .readCount := by decide
theorem test_decode_readStatus :
    decode 0b0001000000000000000000000000000000000000 = .ok .readStatus := by decide

/-- The illegal words of L2-9. -/
theorem test_decode_illegal_words :
    [0xFF12345678, 0x1100000000, 0xFF00000000].map decode = List.replicate 3 (.error .badOpcode) ∧
    [0x070000001D, 0x0700000000, 0x0100000100, 0x0480000000, 0x0800000001, 0x0A00000100,
      0x0BFFFFFFFF].map decode = List.replicate 7 (.error .badArg) := by decide +kernel

theorem test_decodeTableWord :
    decodeTableWord 40 0x0501020304 = some (.setTc 1 2 3 4) ∧ decodeTableWord 40 0x070000001D = none := by
  decide

theorem test_encode : encode (.setFlags true true false false false) = 0x0B00000003 ∧
    encode (.setTc 1 2 3 4) = 0x0501020304 := by decide

/-! ## Commands (vectors L1 and L2) -/

theorem test_nop : answer .nop (zeros .pal) = some [⟨.ok, 0⟩] := by decide +kernel

/-- L2-4, an hour beyond the normal range. -/
theorem test_setHour : after (.setHour 30) (zeros .pal) =
    some { zeros .pal with hour := 30, count := 2700000 } := by decide +kernel

theorem test_setMinute : after (.setMinute 75) (zeros .pal) =
    some { zeros .pal with min := 75, count := 112500 } := by decide +kernel

theorem test_setSecond : after (.setSecond 59) (zeros .pal) =
    some { zeros .pal with sec := 59, count := 1475 } := by decide +kernel

theorem test_setFrame : after (.setFrame 27) (zeros .pal) =
    some { zeros .pal with frm := 27, count := 27 } := by decide +kernel

/-- L2-4, the largest count. -/
theorem test_setTc : (after (.setTc 255 255 255 255) (zeros .ntsc)).map (·.count) =
    some 28006905 := by decide +kernel

/-- L2-5, the largest count at RATE 25: 09:51:31:20. -/
theorem test_setCount : after (.setCount 0xFFFFFFFF) (zeros .pal) =
    some { zeros .pal with count := 0xFFFFFFFF, hour := 9, min := 51, sec := 31, frm := 20 } := by
  decide +kernel

/-- L2-6, the overflow of COUNT: 06:03:14:02. -/
theorem test_setRate : after (.setRate 30) { zeros .film with count := 0xFFFFFFFF } =
    some { zeros .ntsc with count := 1073741822, hour := 6, min := 3, sec := 14, frm := 2 } := by
  decide +kernel

/-- L2-7, 00:75:59:24 at RATE 25 with SFA set steps to 01:00:00:00. -/
theorem test_step_cascade : after .step { clockAt .pal 0 75 59 24 with sfa := true } =
    some { zeros .pal with hour := 1, count := 90000 } := by decide +kernel

/-- L1-6, for both values of `DF_COUNT_SYNC`. -/
theorem test_step_dropFrame :
    { clockAt .ntsc 0 0 59 29 with df := true }.advance true =
      { zeros .ntsc with min := 1, frm := 2, df := true, count := 1802 } ∧
    { clockAt .ntsc 0 0 59 29 with df := true }.advance false =
      { zeros .ntsc with min := 1, frm := 2, df := true, count := 1800 } := by decide +kernel

theorem test_switchField : after .switchField { zeros .pal with il := true } =
    some { zeros .pal with il := true, sfa := true } := by decide +kernel

/-- L1-8. -/
theorem test_generate : answer .generate (clockAt .pal 1 2 3 4) =
    some [⟨.ok, 0x19900405004090040D00411⟩] := by decide +kernel

/-- L2-2 rows e and n: flags at RATE 30, and truncated digits. -/
theorem test_generate_flags_and_truncation :
    { zeros .ntsc with df := true, cf := true, ubf := true, ext := true, sfa := true }.line =
      0x14D0440108401084010C401 ∧
    (clockAt .pal 255 255 255 255).line = 0x10101415014150141501415 := by decide +kernel

theorem test_setFlags : after (.setFlags false true true false true) (zeros .pal) =
    some { zeros .pal with il := true, cf := true, ext := true } := by decide +kernel

/-- L1-5, the user bits in the line. -/
theorem test_setUb : (after (.setUb 0x78563412) (zeros .pal)).map (·.line) =
    some 0x07570601505813050110481 := by decide +kernel

theorem test_clearUb : after .clearUb { zeros .pal with ub := 0xDEADBEEF } = some (zeros .pal) := by
  decide +kernel

theorem test_readTc : answer .readTc (clockAt .pal 1 2 3 4) = some [⟨.ok, 0x01020304⟩] := by
  decide +kernel

theorem test_readCount : answer .readCount (clockAt .pal 1 2 3 4) = some [⟨.ok, 0x00016B97⟩] := by
  decide +kernel

/-- L2-8 row 18. -/
theorem test_readStatus : answer .readStatus { zeros .ntsc with il := true, sfa := true } =
    some [⟨.ok, 0x1E22⟩] := by decide +kernel

/-! ## The host's side -/

/-- The first command after reset, as the host places it. -/
theorem test_first_command_after_reset :
    next? (step (State.reset.withFetchWord 40 0x0C00000007)) =
      some { State.reset with regs := { Registers.reset with ub := 7 }, responses := [⟨.ok, 0⟩] } := by
  rfl

/-- L1-8, the byte stream's first bytes; R59, the packing. -/
theorem test_byteStream_and_packing :
    (byteStream 0x19900405004090040D00411).take 10 = [0xFF, 0, 0, 0, 0xFF, 0, 0, 0, 0, 0] ∧
    packUserBytes 0x12 0x34 0x56 0x78 = 0x78563412 := by decide +kernel

/-- R215 with an event, interlaced. -/
theorem test_frameSequence : frameSequence (some (.setTimecode 1 2 3 4)) true =
    [.step, .setTc 1 2 3 4, .generate, .switchField, .generate] := by decide

/-- The examples of R78, and R79. -/
theorem test_assembler :
    Asm.assemble ["SET_RATE PAL".toList, "SET_TC 01:02:03:04 ; start".toList,
        "SET_FLAGS DF|IL".toList, "NEXT".toList, "EV_SETUB 0x12,0x34,0x56,0x78".toList] =
      some [0x0700000019, 0x0501020304, 0x0B00000003, 0x0800000000, 0x0A00000000, 0x0C78563412] ∧
    Asm.assembleLine "SET_HOUR 256".toList = none ∧
    Asm.showWord 0x0501020304 = "05_01020304".toList := by decide +kernel

/-! ## Witnesses: a state and operands that meet the hypotheses of each statement -/

theorem witness_DecodeOfEncode :
    (Instr.setRate 24).wellFormed = true ∧ (Instr.setRate 30).wellFormed = true ∧
      (Instr.setHour 255).wellFormed = true := by decide

theorem witness_EncodeOfDecode : decode 0x06FFFFFFFF = .ok (.setCount 0xFFFFFFFF) := by decide

theorem witness_ReservedOpcodeAnswersBadOpcode :
    (presenting 0x1100000000 (zeros .pal)).host = .command 0x1100000000 :: [] ∧
    (presenting 0x1100000000 (zeros .pal)).resetLine = false ∧
    0x11 ≤ (0x1100000000 : CommandWord).toNat / 2 ^ 32 ∧
    0x11 ≤ (0xFFFFFFFFFF : CommandWord).toNat / 2 ^ 32 := by decide

theorem witness_IllegalArgumentAnswersBadArg :
    (presenting 0x0000000001 (zeros .pal)).host = .command 0x0000000001 :: [] ∧
    (presenting 0x0000000001 (zeros .pal)).resetLine = false ∧
    (0x1000000001 : CommandWord).toNat / 2 ^ 32 ≤ 0x10 ∧
    argumentIllegal 0x00 0 = false ∧ argumentIllegal 0x01 255 = false ∧
    argumentIllegal 0x07 24 = false ∧ argumentIllegal 0x0B 31 = false ∧
    argumentIllegal 0x0C 0xFFFFFFFF = false ∧
    argumentIllegal 0x00 1 = true ∧ argumentIllegal 0x10 1 = true ∧ argumentIllegal 0x01 256 = true ∧
    argumentIllegal 0x07 23 = true ∧ argumentIllegal 0x07 31 = true ∧ argumentIllegal 0x0B 32 = true := by
  decide

theorem witness_OneStatusPerCommand :
    (presenting 0x0B0000001F (zeros .pal)).host = .command 0x0B0000001F :: [] ∧
    (presenting 0x0B0000001F (zeros .pal)).resetLine = false ∧
    argumentIllegal 0x0B 31 = false ∧ argumentIllegal 0x0B 32 = true ∧
    0x10 < (0x1100000000 : CommandWord).toNat / 2 ^ 32 := by decide

theorem witness_StepRunsTheDecodedCommand :
    (presenting 0x0800000000 (zeros .pal)).host = .command 0x0800000000 :: [] ∧
    (presenting 0x0800000000 (zeros .pal)).resetLine = false ∧ decode 0x0800000000 = .ok .step := by
  decide

theorem witness_PresentedCommandsRunInOrder :
    (∀ i ∈ [Instr.setRate 25, .step, .generate], i.wellFormed = true) ∧
    (idle (zeros .pal)).resetLine = false := by decide

theorem witness_ResetInputResetsTheRegisters :
    { idle (zeros .pal) with host := [.assertReset] }.host = .assertReset :: [] ∧
    { presenting 0x0800000000 (zeros .pal) with resetLine := true }.resetLine = true ∧
    { presenting 0x0800000000 (zeros .pal) with resetLine := true }.host =
      .command 0x0800000000 :: [] ∧
    { idle (zeros .pal) with host := [.releaseReset], resetLine := true }.host =
      .releaseReset :: [] ∧
    { idle (zeros .pal) with host := [.releaseReset], resetLine := true }.resetLine = true := by decide

theorem witness_FieldsOfIsInRangeAndLossless :
    let t : Timecode := ⟨23, 59, 59, 29⟩
    t.frame < Rate.ntsc.fps ∧ t.second < 60 ∧ t.minute < 60 ∧ t.hour < 24 := by decide

theorem witness_SetTcIsTheFourFieldSetsInAnyOrder :
    List.Perm [Instr.setFrame 4, .setSecond 3, .setMinute 2, .setHour 1]
      [.setHour 1, .setMinute 2, .setSecond 3, .setFrame 4] := by decide

theorem witness_ClockSetsIgnoreTheSwitches :
    (∃ v, Instr.setHour 1 = .setHour v ∨ Instr.setHour 1 = .setMinute v ∨
      Instr.setHour 1 = .setSecond v ∨ Instr.setHour 1 = .setFrame v) ∧
    (zeros .pal).hour = { zeros .pal with df := true, sfa := true, ub := 7 }.hour ∧
    (zeros .pal).min = { zeros .pal with df := true, sfa := true, ub := 7 }.min ∧
    (zeros .pal).sec = { zeros .pal with df := true, sfa := true, ub := 7 }.sec ∧
    (zeros .pal).frm = { zeros .pal with df := true, sfa := true, ub := 7 }.frm ∧
    (zeros .pal).rate = { zeros .pal with df := true, sfa := true, ub := 7 }.rate :=
  ⟨⟨1, .inl rfl⟩, rfl, rfl, rfl, rfl, rfl⟩

theorem witness_SetRateRescalesTheCount :
    ((24 : Argument) = 24 ∨ (24 : Argument) = 25 ∨ (24 : Argument) = 30) ∧
    ((25 : Argument) = 24 ∨ (25 : Argument) = 25 ∨ (25 : Argument) = 30) ∧
    ((30 : Argument) = 24 ∨ (30 : Argument) = 25 ∨ (30 : Argument) = 30) := by decide

theorem witness_SetRateOutsideTheRatesIsBadArg :
    (29 : Argument) ≠ 24 ∧ (29 : Argument) ≠ 25 ∧ (29 : Argument) ≠ 30 := by decide

theorem witness_SetRatePreservesWallClock :
    ((24 : Argument) = 24 ∨ (24 : Argument) = 25 ∨ (24 : Argument) = 30) ∧
    (idle (clockAt .ntsc 23 59 59 29)).regs.inRange ∧
    (idle (clockAt .ntsc 23 59 59 29)).regs.count.toNat =
      countOf (idle (clockAt .ntsc 23 59 59 29)).regs.timecode (idle (clockAt .ntsc 23 59 59 29)).regs.fps := by
  decide +kernel

/-- STEP has two clauses: a step that corrects and one that does not. -/
theorem witness_StepAdvancesOneFrame :
    ((clockAt .ntsc 0 0 59 29).storeTimecode (cascade 30 (clockAt .ntsc 0 0 59 29).timecode)).timecode =
      ⟨0, 1, 0, 0⟩ ∧
    ((clockAt .ntsc 0 9 59 29).storeTimecode (cascade 30 (clockAt .ntsc 0 9 59 29).timecode)).timecode =
      ⟨0, 10, 0, 0⟩ := by decide +kernel

theorem witness_DropFrameCorrectionForEachParameterValue :
    { clockAt .ntsc 0 0 59 29 with df := true }.df = true ∧
    { clockAt .ntsc 0 0 59 29 with df := true }.rate = .ntsc ∧
    (cascade 30 { clockAt .ntsc 0 0 59 29 with df := true }.timecode).second = 0 ∧
    (cascade 30 { clockAt .ntsc 0 0 59 29 with df := true }.timecode).frame = 0 ∧
    (cascade 30 { clockAt .ntsc 0 0 59 29 with df := true }.timecode).minute % 10 ≠ 0 := by decide +kernel

theorem witness_CountAndRateSetsBringFieldsInRange :
    ((30 : Argument) = 24 ∨ (30 : Argument) = 25 ∨ (30 : Argument) = 30) := by decide

theorem witness_StepNeverLandsOnASkippedLabel :
    { clockAt .ntsc 0 0 59 29 with df := true }.df = true ∧
    { clockAt .ntsc 0 0 59 29 with df := true }.rate = .ntsc ∧
    { clockAt .ntsc 0 0 59 29 with df := true }.inRange ∧
    ¬ { clockAt .ntsc 0 0 59 29 with df := true }.onSkippedLabel := by decide +kernel

theorem witness_StepsAdvanceTheClock :
    (clockAt .pal 23 59 59 24).inRange ∧
    ¬ ((clockAt .pal 23 59 59 24).df = true ∧ (clockAt .pal 23 59 59 24).rate = .ntsc) := by decide +kernel

theorem witness_DayWrapsExactly :
    (zeros .ntsc).timecode = ⟨0, 0, 0, 0⟩ ∧
    ¬ ((zeros .ntsc).df = true ∧ (zeros .ntsc).rate = .ntsc) := by decide

theorem witness_DropFrameTenMinuteCycle :
    { clockAt .ntsc 23 50 0 0 with df := true }.df = true ∧
    { clockAt .ntsc 23 50 0 0 with df := true }.rate = .ntsc ∧
    { clockAt .ntsc 23 50 0 0 with df := true }.inRange ∧
    { clockAt .ntsc 23 50 0 0 with df := true }.min.toNat % 10 = 0 ∧
    { clockAt .ntsc 23 50 0 0 with df := true }.sec = 0 ∧
    { clockAt .ntsc 23 50 0 0 with df := true }.frm = 0 := by decide +kernel

theorem witness_DropFrameDay :
    { zeros .ntsc with df := true }.df = true ∧ { zeros .ntsc with df := true }.rate = .ntsc ∧
    { zeros .ntsc with df := true }.timecode = ⟨0, 0, 0, 0⟩ ∧
    (0 < 1 ∧ 1 < 2589408) ∧ (0 < 2589407 ∧ 2589407 < 2589408) := by decide

theorem witness_SwitchFieldTogglesWhenInterlaced :
    (idle { zeros .pal with il := true }).regs.il = true ∧ (idle (zeros .pal)).regs.il = false := by
  decide

theorem witness_DigitsOfTheLineGiveTheFields :
    (idle (clockAt .ntsc 23 59 59 29)).regs.frm.toNat < 30 ∧
    (idle (clockAt .ntsc 23 59 59 29)).regs.sec.toNat < 60 ∧
    (idle (clockAt .ntsc 23 59 59 29)).regs.min.toNat < 60 ∧
    (idle (clockAt .ntsc 23 59 59 29)).regs.hour.toNat < 24 := by decide +kernel

/-- Both cases: two states at RATE 24 that differ in SFA, IL and COUNT, and two at RATE 25 that differ in
IL and COUNT. -/
theorem witness_GenerateReadsOnlyItsRegisters :
    let a := zeros .film
    let b := { zeros .film with sfa := true, il := true, count := 9 }
    let c := zeros .pal
    let d := { zeros .pal with il := true, count := 9 }
    (a.hour = b.hour ∧ a.min = b.min ∧ a.sec = b.sec ∧ a.frm = b.frm ∧ a.rate = b.rate ∧ a.df = b.df ∧
      a.cf = b.cf ∧ a.ubf = b.ubf ∧ a.ext = b.ext ∧ a.ub = b.ub ∧ (a.rate = .film ∨ a.sfa = b.sfa)) ∧
    (c.hour = d.hour ∧ c.min = d.min ∧ c.sec = d.sec ∧ c.frm = d.frm ∧ c.rate = d.rate ∧ c.df = d.df ∧
      c.cf = d.cf ∧ c.ubf = d.ubf ∧ c.ext = d.ext ∧ c.ub = d.ub ∧ (c.rate = .film ∨ c.sfa = d.sfa)) := by
  decide

theorem witness_ChecksumIsLinear : (zeros .pal).rate = .pal ∧ 0 ≤ 81 ∧ 81 ≤ 81 := by decide

theorem witness_PalFieldsDifferInTwoBits :
    (idle { zeros .pal with il := true }).regs.rate = .pal ∧
    (idle { zeros .pal with il := true }).regs.il = true ∧
    (idle { zeros .pal with il := true }).regs.sfa = false := by decide

/-- Each register of R21 is changed by one of its writers from `00:00:00:00` at RATE 25. -/
theorem witness_OnlyItsWritersChangeARegister :
    (after (.setHour 1) (zeros .pal)).map (·.hour) ≠ some 0 ∧
    (after (.setMinute 1) (zeros .pal)).map (·.min) ≠ some 0 ∧
    (after (.setSecond 1) (zeros .pal)).map (·.sec) ≠ some 0 ∧
    (after (.setFrame 1) (zeros .pal)).map (·.frm) ≠ some 0 ∧
    (after (.setFrame 1) (zeros .pal)).map (·.count) ≠ some 0 ∧
    (after (.setRate 24) (zeros .pal)).map (·.rate) ≠ some .pal ∧
    (after (.setFlags true true true true true) (zeros .pal)).map (·.ext) ≠ some false ∧
    (after .switchField { zeros .pal with il := true }).map (·.sfa) ≠ some false ∧
    (after (.setUb 1) (zeros .pal)).map (·.ub) ≠ some 0 := by decide +kernel

theorem witness_CountTracksFieldsIsKept :
    (presenting 0x0C00000007 (clockAt .pal 1 2 3 4)).regs.countTracksFields Config.dfCountSync ∧
    step (presenting 0x0C00000007 (clockAt .pal 1 2 3 4)) =
      .next { idle { clockAt .pal 1 2 3 4 with ub := 7 } with responses := [⟨.ok, 0⟩] } :=
  ⟨.inl (by decide +kernel), rfl⟩

/-- The stale half of that premise: what STEP leaves of 00:00:59:29 with `DF_COUNT_SYNC` false (L1-6). -/
theorem witness_CountTracksFieldsIsKept_stale :
    { clockAt .ntsc 0 1 0 2 with df := true, count := 1800 }.countTracksFields false ∧
    ¬ { clockAt .ntsc 0 1 0 2 with df := true, count := 1800 }.countTracksFields true := by
  unfold Registers.countTracksFields Registers.staleCount
  decide +kernel

theorem witness_ResponsesStayLegal :
    { presenting 0x1100000000 (zeros .pal) with responses := [⟨.badArg, 0⟩] }.responsesLegal ∧
    step { presenting 0x1100000000 (zeros .pal) with responses := [⟨.badArg, 0⟩] } =
      .next { idle (zeros .pal) with responses := [⟨.badArg, 0⟩, ⟨.badOpcode, 0⟩] } :=
  ⟨by decide, rfl⟩

end Sys2Proof.Machine.Tests
end

section
/-! PROOFS. The statements of the scope: a step runs the command its word decodes to, and the drop-frame
correction for each value of `DF_COUNT_SYNC`. -/

namespace Sys2Proof.Machine

/-! ## The count of the stored fields -/

theorem fps_cases (r : Registers) : r.fps = 24 ∨ r.fps = 25 ∨ r.fps = 30 := r.rate.fps_cases

/-- COUNT is wide enough for the count of any four 8-bit fields at any rate (R150). -/
theorem countOf_timecode_lt (r : Registers) : countOf r.timecode r.fps < 2 ^ 32 := by
  obtain ⟨hh, hm, hs, hf⟩ := timecode_lt r
  unfold countOf
  rcases fps_cases r with h | h | h <;> rw [h] <;> omega

@[simp] theorem fieldCount_toNat (r : Registers) : r.fieldCount.toNat = countOf r.timecode r.fps := by
  rw [Registers.fieldCount, BitVec.toNat_ofNat, Nat.mod_eq_of_lt (countOf_timecode_lt r)]

theorem countOf_frame (t : Timecode) (fps f : Nat) :
    countOf { t with frame := f } fps + t.frame = countOf t fps + f := by
  dsimp only [countOf]
  omega

/-! ## STEP before the drop-frame correction -/

/-- The registers of STEP after the cascade and the recount, before the correction (R170). -/
def Registers.cascaded (r : Registers) : Registers :=
  (r.storeTimecode (cascade r.fps r.timecode)).recount

/-- STEP is the cascade, then the correction where it applies, then SFA 0 (R170). -/
theorem advance_eq (sync : Bool) (r : Registers) :
    r.advance sync =
      { (if r.cascaded.dropsFrames then r.cascaded.correctDropFrame sync else r.cascaded) with
        sfa := false } := rfl

@[simp] theorem cascaded_rate (r : Registers) : r.cascaded.rate = r.rate := rfl
@[simp] theorem cascaded_df (r : Registers) : r.cascaded.df = r.df := rfl

/-- The cascade's fields are in range, so the 8-bit registers hold them exactly (R171). -/
@[simp] theorem cascaded_timecode (r : Registers) :
    r.cascaded.timecode = cascade r.fps r.timecode := by
  have hfps := fps_cases r
  obtain ⟨hf, hs, hm, hh⟩ := cascade_bounds (fps := r.fps) (by omega) r.timecode
  exact storeTimecode_timecode r (by omega) (by omega) (by omega) (by omega)

theorem cascaded_count_toNat (r : Registers) :
    r.cascaded.count.toNat = countOf r.cascaded.timecode r.fps :=
  fieldCount_toNat (r.storeTimecode (cascade r.fps r.timecode))

/-- The condition of the correction, on the numbers the cascade gives (R170, R172). -/
theorem cascaded_dropsFrames_iff (r : Registers) :
    r.cascaded.dropsFrames = true ↔
      r.df = true ∧ r.rate = .ntsc ∧ (cascade r.fps r.timecode).second = 0 ∧
        (cascade r.fps r.timecode).frame = 0 ∧ (cascade r.fps r.timecode).minute % 10 ≠ 0 := by
  have hsec : r.cascaded.sec = 0 ↔ r.cascaded.timecode.second = 0 := BitVec.toNat_inj.symm
  have hfrm : r.cascaded.frm = 0 ↔ r.cascaded.timecode.frame = 0 := BitVec.toNat_inj.symm
  have hmin : r.cascaded.min.toNat = r.cascaded.timecode.minute := rfl
  rw [dropsFrames_iff, hsec, hfrm, hmin, cascaded_timecode, cascaded_rate, cascaded_df]

/-! ## The drop-frame correction -/

theorem correctDropFrame_timecode (sync : Bool) (r : Registers) :
    (r.correctDropFrame sync).timecode = { r.timecode with frame := 2 } := rfl

theorem correctDropFrame_true_count_toNat (r : Registers) :
    (r.correctDropFrame true).count.toNat = countOf (r.correctDropFrame true).timecode r.fps :=
  fieldCount_toNat { r with frm := 2 }

theorem correctDropFrame_false_count (r : Registers) : (r.correctDropFrame false).count = r.count := rfl

/-- The correction moves a label from frame 0 to frame 2, so a COUNT that was the count of the fields
ends equal to theirs if it is recomputed, and 2 below it if not (R172). -/
theorem correctDropFrame_count (sync : Bool) {r : Registers} (hfrm : r.timecode.frame = 0)
    (hcount : r.count.toNat = countOf r.timecode r.fps) :
    (r.correctDropFrame sync).count.toNat + (if sync then 0 else 2) =
      countOf (r.correctDropFrame sync).timecode r.fps := by
  cases sync with
  | true => simpa using correctDropFrame_true_count_toNat r
  | false =>
    have hshift := countOf_frame r.timecode r.fps 2
    rw [hfrm, Nat.add_zero] at hshift
    rw [correctDropFrame_timecode, correctDropFrame_false_count, hcount, hshift]
    rfl

/-! ## The statements -/

/-- Settles O25: where the correction applies, STEP leaves the corrected registers with SFA 0, and the
cascade has just made COUNT the count of a label of frame 0. -/
theorem dropFrameCorrectionForEachParameterValue :
    Obligations.DropFrameCorrectionForEachParameterValue := by
  intro sync r hdf hrate hsec hfrm hmin
  have hfps : r.fps = 30 := by rw [Registers.fps, hrate]; rfl
  rw [← hfps] at hsec hfrm hmin ⊢
  have hdrops : r.cascaded.dropsFrames = true :=
    (cascaded_dropsFrames_iff r).2 ⟨hdf, hrate, hsec, hfrm, hmin⟩
  rw [advance_eq, if_pos hdrops]
  exact ⟨rfl, correctDropFrame_count sync (by rwa [cascaded_timecode]) (cascaded_count_toNat r)⟩

/-- With reset released, a presented word is taken from the host and run (R55, R270). -/
theorem step_of_command {w : CommandWord} {rest : List HostAction} {s : State}
    (hhost : s.host = .command w :: rest) (hreset : s.resetLine = false) :
    step s = runCommand w { s with host := rest } := by
  simp [step, takeHostAction, hhost, hreset]

/-- A word that decodes to a command runs that command (R76). -/
theorem runCommand_of_decode_ok {w : CommandWord} {i : Instr} (hdecode : decode w = .ok i) (s : State) :
    runCommand w s = exec i s := by
  simp [runCommand, hdecode]

/-- Settles O7: the word is taken, then what it decodes to is run. -/
theorem stepRunsTheDecodedCommand : Obligations.StepRunsTheDecodedCommand := by
  intro w i rest s hhost hreset hdecode
  rw [step_of_command hhost hreset, runCommand_of_decode_ok hdecode]

end Sys2Proof.Machine
end

section
/-! PROOFS. What each command does, said once: the registers it leaves, the response it gives, and the
command its word decodes to. -/

namespace Sys2Proof

open Machine (Registers Response)

/-- The registers a command leaves (R152 to R160, R170, R202 to R211); `exec_eq_next` ties it to `exec`. -/
def Instr.regsAfter : Instr → Registers → Registers
  | .nop, r => r
  | .setHour v, r => { r with hour := v }.recount
  | .setMinute v, r => { r with min := v }.recount
  | .setSecond v, r => { r with sec := v }.recount
  | .setFrame v, r => { r with frm := v }.recount
  | .setTc h m sec f, r => { r with hour := h, min := m, sec := sec, frm := f }.recount
  | .setCount n, r => { r with count := n }.rederive
  | .setRate n, r => (Rate.ofFps? n.toNat).elim r r.changeRate
  | .step, r => r.advance Config.dfCountSync
  | .switchField, r => { r with sfa := if r.il then !r.sfa else r.sfa }
  | .generate, r => r
  | .setFlags df il cf ubf ext, r => { r with df := df, il := il, cf := cf, ubf := ubf, ext := ext }
  | .setUb n, r => { r with ub := n }
  | .clearUb, r => { r with ub := 0 }
  | .readTc, r => r
  | .readCount, r => r
  | .readStatus, r => r

/-- The response a command gives (R72): BadArg for an illegal rate, OK with the data of a query, and OK
with data 0 otherwise; `exec_eq_next` ties it to `exec`. -/
def Instr.answer : Instr → Registers → Response
  | .setRate n, _ => (Rate.ofFps? n.toNat).elim ⟨.badArg, 0⟩ fun _ => ⟨.ok, 0⟩
  | .generate, r => ⟨.ok, r.line⟩
  | .readTc, r => ⟨.ok, Machine.readData r.timecodeWord⟩
  | .readCount, r => ⟨.ok, Machine.readData r.count⟩
  | .readStatus, r => ⟨.ok, Machine.readData r.statusWord⟩
  | _, _ => ⟨.ok, 0⟩

/-! ## The word of a command -/

/-- A word whose opcode has a row and whose argument is legal decodes to the row's command (R76). -/
theorem decode_of_row {w : CommandWord} {form : Form} {operands : Argument → Instr}
    (hrow : opcodeRow (opcodeField w).toNat = some (form, operands))
    (hlegal : form.legal (argField w) = true) : decode w = .ok (operands (argField w)) := by
  simp [decode, hrow, hlegal]

/-- The encoding of a command decodes to it if its opcode's row reads the operands back (R70, R76). -/
theorem decode_encode_of_row {i : Instr} {form : Form} {operands : Argument → Instr}
    (hrow : opcodeRow i.opcode.toNat = some (form, operands))
    (hlegal : form.legal i.argument = true) (hread : operands i.argument = i) :
    decode (encode i) = .ok i := by
  have hopc : opcodeField (encode i) = i.opcode := Laws.EncodedFields.opcodeField_commandWord _ _
  have harg : argField (encode i) = i.argument := Laws.EncodedFields.argField_commandWord _ _
  rw [← hopc] at hrow
  rw [← harg] at hlegal
  rw [decode_of_row hrow hlegal, harg, hread]

/-- Form `u8` (R71): an 8-bit operand zero-extended is legal. -/
theorem u8_legal_setWidth (v : Field) : Form.u8.legal (v.setWidth 32) = true := by
  have hhigh : (v.setWidth 32).extractLsb' 8 24 = 0 := by
    rw [BitVec.extractLsb'_setWidth_of_le (by decide)]
    ext j hj
    simp
  simpa [Form.legal] using hhigh

/-- Form `u8` (R71): the operand read is the operand zero-extended. -/
theorem u8Operand_setWidth (v : Field) : u8Operand (v.setWidth 32) = v := by
  rw [u8Operand, BitVec.extractLsb'_setWidth_of_le (by decide), BitVec.extractLsb'_eq_self]

/-- Form `tcw` (R71): the four operands read are the four packed. -/
theorem tcw_operands (h m s f : Field) :
    (h ++ m ++ s ++ f).extractLsb' 24 8 = h ∧ (h ++ m ++ s ++ f).extractLsb' 16 8 = m ∧
      (h ++ m ++ s ++ f).extractLsb' 8 8 = s ∧ (h ++ m ++ s ++ f).extractLsb' 0 8 = f := by
  refine ⟨?_, ?_, ?_, BitVec.extractLsb'_append_eq_right⟩
  · iterate 3 rw [BitVec.extractLsb'_append_eq_of_le (by decide)]
    exact BitVec.extractLsb'_eq_self
  · iterate 2 rw [BitVec.extractLsb'_append_eq_of_le (by decide)]
    exact BitVec.extractLsb'_append_eq_right
  · rw [BitVec.extractLsb'_append_eq_of_le (by decide)]
    exact BitVec.extractLsb'_append_eq_right

/-- Form `flags` (R36, R71): the flags word is legal and its five low bits are the operands. -/
theorem flagsWord_legal_and_bits : ∀ df il cf ubf ext : Bool,
    Form.flags.legal (flagsWord df il cf ubf ext) = true ∧
      (flagsWord df il cf ubf ext).getLsbD 0 = df ∧ (flagsWord df il cf ubf ext).getLsbD 1 = il ∧
      (flagsWord df il cf ubf ext).getLsbD 2 = cf ∧ (flagsWord df il cf ubf ext).getLsbD 3 = ubf ∧
      (flagsWord df il cf ubf ext).getLsbD 4 = ext := by decide

/-- The word of a well-formed command decodes to it (R71, R74, R76): the row of its opcode reads back what
the argument packs. -/
theorem decode_encode {i : Instr} (hwf : i.wellFormed = true) : decode (encode i) = .ok i := by
  cases i with
  | nop | step | switchField | generate | clearUb | readTc | readCount | readStatus =>
    exact decode_encode_of_row rfl rfl rfl
  | setHour v | setMinute v | setSecond v | setFrame v =>
    exact decode_encode_of_row rfl (u8_legal_setWidth v) (by simp [Instr.argument, u8Operand_setWidth])
  | setTc h m s f =>
    obtain ⟨hh, hm, hs, hf⟩ := tcw_operands h m s f
    exact decode_encode_of_row rfl rfl (by simp only [Instr.argument, hh, hm, hs, hf])
  | setCount n | setUb n => exact decode_encode_of_row rfl rfl rfl
  | setRate r => exact decode_encode_of_row rfl hwf rfl
  | setFlags df il cf ubf ext =>
    obtain ⟨hlegal, h0, h1, h2, h3, h4⟩ := flagsWord_legal_and_bits df il cf ubf ext
    exact decode_encode_of_row rfl hlegal (by simp only [Instr.argument, h0, h1, h2, h3, h4])

end Sys2Proof

namespace Sys2Proof.Machine

/-! ## What `exec` answers -/

theorem regsAfter_setRate_of_none {n : Argument} (h : Rate.ofFps? n.toNat = none) (r : Registers) :
    (Instr.setRate n).regsAfter r = r := by
  rw [Instr.regsAfter, h, Option.elim_none]

theorem regsAfter_setRate_of_some {n : Argument} {k : Rate} (h : Rate.ofFps? n.toNat = some k)
    (r : Registers) : (Instr.setRate n).regsAfter r = r.changeRate k := by
  rw [Instr.regsAfter, h, Option.elim_some]

theorem answer_setRate (n : Argument) (r : Registers) :
    (Instr.setRate n).answer r = (Rate.ofFps? n.toNat).elim ⟨.badArg, 0⟩ fun _ => ⟨.ok, 0⟩ := rfl

theorem answer_setRate_of_none {n : Argument} (h : Rate.ofFps? n.toNat = none) (r : Registers) :
    (Instr.setRate n).answer r = ⟨.badArg, 0⟩ := by
  rw [answer_setRate, h, Option.elim_none]

theorem answer_setRate_of_some {n : Argument} {k : Rate} (h : Rate.ofFps? n.toNat = some k)
    (r : Registers) : (Instr.setRate n).answer r = ⟨.ok, 0⟩ := by
  rw [answer_setRate, h, Option.elim_some]

/-- Every command answers a next state, with the registers it leaves and one response more, and leaves
the host's list and the reset input alone (R56, R250). -/
theorem exec_eq_next (i : Instr) (s : State) :
    exec i s = .next { s with regs := i.regsAfter s.regs,
                              responses := s.responses ++ [i.answer s.regs] } := by
  cases i with
  | setRate n =>
    change execSetRate n s = _
    rcases Option.eq_none_or_eq_some (Rate.ofFps? n.toNat) with hk | ⟨k, hk⟩
    · simp [execSetRate, regsAfter_setRate_of_none, answer_setRate_of_none, hk, raise, errorStatus,
        State.respond]
    · simp [execSetRate, regsAfter_setRate_of_some hk, answer_setRate_of_some hk, hk, complete,
        State.respond]
  | _ => rfl

theorem exec_regs {i : Instr} {s t : State} (h : exec i s = .next t) :
    t.regs = i.regsAfter s.regs := by
  rw [exec_eq_next] at h
  cases h
  rfl

/-- SET_RATE leaves the registers of a rate change, or, its number illegal, all registers (R160). -/
theorem regsAfter_setRate_cases (n : Argument) (r : Registers) :
    (Instr.setRate n).regsAfter r = r ∨ ∃ k, (Instr.setRate n).regsAfter r = r.changeRate k := by
  rcases Option.eq_none_or_eq_some (Rate.ofFps? n.toNat) with hk | ⟨k, hk⟩
  · exact .inl (regsAfter_setRate_of_none hk r)
  · exact .inr ⟨k, regsAfter_setRate_of_some hk r⟩

/-- SFA after a command: STEP clears it, SWITCH_FIELD toggles it when IL is set (R29, R205). -/
theorem regsAfter_sfa (i : Instr) (r : Registers) :
    (i.regsAfter r).sfa =
      if i = .step then false else if i = .switchField ∧ r.il = true then !r.sfa else r.sfa := by
  cases i with
  | step => rfl
  | switchField => simp [Instr.regsAfter]
  | setRate n =>
    rcases regsAfter_setRate_cases n r with h | ⟨k, h⟩ <;> simp [h]
  | _ => rfl

/-- A run of the machine of one step more. -/
theorem run_core_of_step {n : Nat} {s t : State} (h : step s = .next t) :
    core.run (n + 1) s = core.run n t :=
  @run_of_step core n s t h

/-- An action of the host that is no command, or a command that cannot run, leaves the registers or resets
them (R258, R270); any other step leaves the registers its command leaves. -/
theorem step_regs_cases {s t : State} (h : step s = .next t) :
    t.regs = s.regs ∨ t.regs = Registers.reset ∨ ∃ i : Instr, t.regs = i.regsAfter s.regs := by
  rcases step_cases h with ⟨-, rfl⟩ | ⟨w, rest, -, -, rfl⟩ | ⟨w, i, rest, -, -, -, hexec⟩ |
    ⟨w, e, rest, -, -, -, rfl⟩ | ⟨rest, -, rfl⟩ | ⟨rest, -, rfl⟩
  case inr.inr.inl => exact .inr (.inr ⟨i, (exec_regs hexec :)⟩)
  case inr.inr.inr.inr.inr =>
    cases s.resetLine with
    | false => exact .inl (by simp [releaseReset])
    | true => exact .inr (.inl (by simp [releaseReset]))
  all_goals exact .inl rfl

end Sys2Proof.Machine
end

section
/-! PROOFS. The two views of the clock: the ranges of the fields, and their agreement with COUNT. -/

namespace Sys2Proof.Machine

/-! ## Ranges -/

/-- The fields of a count are in their normal ranges (R151). -/
theorem fieldsOf_bounds (n : Nat) {fps : Nat} (hfps : 0 < fps) :
    (fieldsOf n fps).frame < fps ∧ (fieldsOf n fps).second ≤ 59 ∧ (fieldsOf n fps).minute ≤ 59 ∧
      (fieldsOf n fps).hour ≤ 23 :=
  ⟨Nat.mod_lt _ hfps, Nat.le_of_lt_succ (Nat.mod_lt _ (by decide)),
    Nat.le_of_lt_succ (Nat.mod_lt _ (by decide)), Nat.le_of_lt_succ (Nat.mod_lt _ (by decide))⟩

/-- The normal ranges, read off the timecode as numbers (R23). -/
theorem inRange_iff (r : Registers) :
    r.inRange ↔ r.timecode.frame < r.fps ∧ r.timecode.second ≤ 59 ∧ r.timecode.minute ≤ 59 ∧
      r.timecode.hour ≤ 23 := Iff.rfl

theorem inRange_with_sfa (b : Bool) (r : Registers) : { r with sfa := b }.inRange ↔ r.inRange := Iff.rfl

theorem rederive_inRange (r : Registers) : r.rederive.inRange := by
  rw [inRange_iff, rederive_timecode]
  exact fieldsOf_bounds _ r.rate.fps_pos

theorem changeRate_inRange (r : Registers) (k : Rate) : (r.changeRate k).inRange :=
  rederive_inRange _

theorem cascaded_inRange (r : Registers) : r.cascaded.inRange := by
  rw [inRange_iff, cascaded_timecode]
  exact cascade_bounds r.rate.fps_pos _

/-- The correction applies at RATE 30 alone, where frame 2 is in range (R172). -/
theorem correctDropFrame_inRange (sync : Bool) {r : Registers} (hrate : r.rate = .ntsc)
    (h : r.inRange) : (r.correctDropFrame sync).inRange := by
  obtain ⟨-, hsec, hmin, hhour⟩ := h
  have hfrm : 2 < (r.correctDropFrame sync).fps := by
    rw [Registers.fps, correctDropFrame_rate, hrate]
    decide
  exact ⟨hfrm, hsec, hmin, hhour⟩

theorem advance_inRange (sync : Bool) (r : Registers) : (r.advance sync).inRange := by
  rw [advance_eq, inRange_with_sfa]
  split
  next hdrops =>
    obtain ⟨-, hrate, -⟩ := (dropsFrames_iff _).1 hdrops
    exact correctDropFrame_inRange sync hrate (cascaded_inRange r)
  next => exact cascaded_inRange r

/-! ## COUNT and the fields -/

/-- The count of the fields of `n` is `n` modulo one day (R150, R151): the frames, seconds, minutes and
hours are the digits of `n` to the bases `fps`, 60, 60 and 24. -/
theorem countOf_fieldsOf (n fps : Nat) : countOf (fieldsOf n fps) fps = n % (fps * 86400) := by
  have hday : fps * 86400 = fps * 60 * 60 * 24 := by ring
  have hhour : fps * 3600 = fps * 60 * 60 := by ring
  rw [hday, Nat.mod_mul, Nat.mod_mul, Nat.mod_mul, ← hhour]
  rfl

theorem countTracksFields_of_count_eq {sync : Bool} {r : Registers}
    (h : r.count.toNat = countOf r.timecode r.fps) : r.countTracksFields sync :=
  .inl (congrArg (· % r.framesPerDay) h)

/-- The agreement does not depend on SFA (R24). -/
theorem countTracksFields_with_sfa (sync b : Bool) (r : Registers) :
    { r with sfa := b }.countTracksFields sync ↔ r.countTracksFields sync := Iff.rfl

theorem recount_countTracksFields (sync : Bool) (r : Registers) :
    r.recount.countTracksFields sync :=
  countTracksFields_of_count_eq (fieldCount_toNat r)

theorem rederive_countTracksFields (sync : Bool) (r : Registers) :
    r.rederive.countTracksFields sync :=
  .inl (by
    rw [rederive_timecode, rederive_count, rederive_fps, countOf_fieldsOf]
    exact (Nat.mod_mod _ _).symm)

/-- The correction leaves COUNT the count of the fields, or the stale view if COUNT is not recomputed
(R172). -/
theorem correctDropFrame_countTracksFields (sync : Bool) {r : Registers}
    (hdrops : r.dropsFrames = true) (hcount : r.count.toNat = countOf r.timecode r.fps) :
    (r.correctDropFrame sync).countTracksFields sync := by
  obtain ⟨-, hrate, hsec, hfrm, hmin⟩ := (dropsFrames_iff r).1 hdrops
  have hframe : r.timecode.frame = 0 := by simp [Registers.timecode, hfrm]
  have hshift := correctDropFrame_count sync hframe hcount
  cases sync with
  | true => exact countTracksFields_of_count_eq hshift
  | false => exact .inr ⟨rfl, hrate, hsec, rfl, hmin, hshift⟩

/-- STEP re-establishes the agreement from any registers (R24, R172). -/
theorem advance_countTracksFields (sync : Bool) (r : Registers) :
    (r.advance sync).countTracksFields sync := by
  rw [advance_eq, countTracksFields_with_sfa]
  split
  next hdrops => exact correctDropFrame_countTracksFields sync hdrops (cascaded_count_toNat r)
  next => exact recount_countTracksFields sync _

theorem reset_countTracksFields (sync : Bool) : Registers.reset.countTracksFields sync :=
  countTracksFields_of_count_eq (by simp [Registers.reset, Registers.timecode, countOf])

/-- Every command keeps the agreement: it recomputes COUNT, re-derives the fields, steps, or leaves RATE
and the two views alone (R24). -/
theorem regsAfter_countTracksFields (i : Instr) {r : Registers}
    (h : r.countTracksFields Config.dfCountSync) :
    (i.regsAfter r).countTracksFields Config.dfCountSync := by
  cases i with
  | setHour | setMinute | setSecond | setFrame | setTc => exact recount_countTracksFields _ _
  | setCount n => exact rederive_countTracksFields _ _
  | setRate n =>
    rcases regsAfter_setRate_cases n r with heq | ⟨k, heq⟩ <;> rw [heq]
    · exact h
    · exact rederive_countTracksFields _ _
  | step => exact advance_countTracksFields _ r
  | _ => exact h

end Sys2Proof.Machine
end

section
/-! PROOFS. The words a query returns, as numbers. -/

namespace Sys2Proof.Machine

theorem toNat_append_eq_add {v w : Nat} (x : BitVec v) (y : BitVec w) :
    (x ++ y).toNat = x.toNat * 2 ^ w + y.toNat := by
  rw [BitVec.toNat_append, ← Nat.shiftLeft_add_eq_or_of_lt y.isLt, Nat.shiftLeft_eq]

/-- `zext_90` keeps the number (R11, R72). -/
@[simp] theorem readData_toNat (w : BitVec 32) : (readData w).toNat = w.toNat := by
  rw [readData, BitVec.toNat_setWidth, Nat.mod_eq_of_lt (lt_trans w.isLt (by decide))]

/-- The timecode word as a number (R37). -/
theorem timecodeWord_toNat (r : Registers) :
    r.timecodeWord.toNat =
      r.hour.toNat * 2 ^ 24 + r.min.toNat * 2 ^ 16 + r.sec.toNat * 2 ^ 8 + r.frm.toNat := by
  simp only [Registers.timecodeWord, toNat_append_eq_add]
  ring

/-- The five bits of RATE hold its fps value (R25). -/
theorem rate_bits_toNat (k : Rate) : k.bits.toNat = k.fps := by cases k <;> rfl

/-- The status word as a number (R35). -/
theorem statusWord_toNat (r : Registers) :
    r.statusWord.toNat = r.df.toNat + 2 * r.il.toNat + 4 * r.cf.toNat + 8 * r.ubf.toNat
      + 16 * r.ext.toNat + 32 * r.sfa.toNat + 256 * r.fps := by
  rw [Registers.statusWord, BitVec.toNat_setWidth_of_le (by decide)]
  simp only [toNat_append_eq_add, BitVec.toNat_ofBool, rate_bits_toNat, BitVec.toNat_ofNat]
  ring

/-- At RATE 24 the line has no second-field flag, so its flags do not depend on SFA (R29, R201). -/
theorem lineFlags_sfa_of_film {r : Registers} (hrate : r.rate = .film) (b : Bool) :
    { r with sfa := b }.lineFlags = r.lineFlags := by
  have hntsc : (Rate.film == .ntsc) = false := rfl
  have hpal : (Rate.film == .pal) = false := rfl
  simp [Registers.lineFlags, hrate, hntsc, hpal]

end Sys2Proof.Machine
end

section
/-! PROOFS. The statements about the state: its invariant, its frame, and the commands that read it. -/

namespace Sys2Proof.Machine

/-- Settles O56: a step leaves the registers, resets them, or runs one command, and each of the three
keeps the agreement. -/
theorem countTracksFieldsIsKept : Obligations.CountTracksFieldsIsKept := by
  refine ⟨fun s t htracks hstep => ?_, advance_countTracksFields⟩
  rcases step_regs_cases hstep with heq | heq | ⟨i, heq⟩ <;> rw [heq]
  · exact htracks
  · exact reset_countTracksFields _
  · exact regsAfter_countTracksFields i htracks

/-- Settles O8, by induction on the commands: the first is decoded from its word and run, and the rest
run on what it leaves. -/
theorem presentedCommandsRunInOrder : Obligations.PresentedCommandsRunInOrder := by
  intro is rest
  induction is with
  | nil => intro s _ _; rfl
  | cons i is ih =>
    intro s hwf hreset
    have hstep : step { s with host := present (i :: is) ++ rest } =
        exec i { s with host := present is ++ rest } :=
      stepRunsTheDecodedCommand _ i _ _ rfl hreset (decode_encode (hwf i List.mem_cons_self))
    rw [exec_eq_next] at hstep
    refine (run_core_of_step hstep).trans ?_
    rw [execAll, exec_eq_next]
    exact ih { s with regs := i.regsAfter s.regs, responses := s.responses ++ [i.answer s.regs] }
      (fun j hj => hwf j (List.mem_cons_of_mem i hj)) hreset

/-- Settles O10: SET_RATE with an illegal number is the one command whose response is not OK. -/
theorem everyCommandGivesOneResponse : Obligations.EveryCommandGivesOneResponse := by
  intro i s
  refine ⟨_, _, exec_eq_next i s, ?_⟩
  cases i with
  | setRate n =>
    rcases Option.eq_none_or_eq_some (Rate.ofFps? n.toNat) with hk | ⟨k, hk⟩
    · simp [regsAfter_setRate_of_none hk, answer_setRate_of_none hk]
    · simp [answer_setRate_of_some hk]
  | _ => exact fun hne => absurd rfl hne

/-- Settles O26. -/
theorem stepBringsFieldsInRange : Obligations.StepBringsFieldsInRange :=
  fun s => ⟨_, exec_eq_next .step s, advance_inRange _ s.regs⟩

/-- Settles O27: both commands re-derive the fields from COUNT. -/
theorem countAndRateSetsBringFieldsInRange : Obligations.CountAndRateSetsBringFieldsInRange := by
  refine fun s => ⟨fun n => ⟨_, exec_eq_next _ s, rederive_inRange _⟩, ?_⟩
  rintro r (rfl | rfl | rfl)
  · exact ⟨_, exec_eq_next _ s, changeRate_inRange s.regs .film⟩
  · exact ⟨_, exec_eq_next _ s, changeRate_inRange s.regs .pal⟩
  · exact ⟨_, exec_eq_next _ s, changeRate_inRange s.regs .ntsc⟩

/-- Settles O37. -/
theorem readTcReturnsTheFields : Obligations.ReadTcReturnsTheFields :=
  fun s => ⟨_, exec_eq_next .readTc s, (readData_toNat _).trans (timecodeWord_toNat s.regs)⟩

/-- Settles O39. -/
theorem readStatusReturnsTheStatusWord : Obligations.ReadStatusReturnsTheStatusWord := by
  refine fun s => ⟨_, exec_eq_next .readStatus s, ?_⟩
  rw [readData_toNat, statusWord_toNat, Registers.fps]
  cases s.regs.rate <;> rfl

/-- Settles O53: each command is a writer of every register it can change. The commands that write
nothing come first, then those that write the clock, then those that write the switches, SFA or UB. -/
theorem onlyItsWritersChangeARegister : Obligations.OnlyItsWritersChangeARegister := by
  intro i s t hexec
  rw [exec_regs hexec]
  cases i with
  | nop | generate | readTc | readCount | readStatus => simp [Instr.regsAfter]
  | setHour | setMinute | setSecond | setFrame | setTc | setCount | step => simp [Instr.regsAfter]
  | setRate n => rcases regsAfter_setRate_cases n s.regs with heq | ⟨k, heq⟩ <;> simp [heq]
  | switchField | setFlags | setUb | clearUb => simp [Instr.regsAfter]

/-- Settles O54: the phase is a function of SFA alone. -/
theorem phaseFollowsTheTable : Obligations.PhaseFollowsTheTable := by
  intro i s
  refine ⟨_, exec_eq_next i s, ?_⟩
  simp only [Registers.phase, regsAfter_sfa]
  by_cases hstep : i = .step
  · simp [hstep]
  by_cases htoggle : i = .switchField ∧ s.regs.il = true
  · rcases Bool.eq_false_or_eq_true s.regs.sfa with hsfa | hsfa <;> simp [htoggle, hsfa]
  · simp [hstep, htoggle]

/-- Settles O11. -/
theorem resetStateHoldsTheResetValues : Obligations.ResetStateHoldsTheResetValues :=
  ⟨rfl, rfl, rfl, rfl, rfl, rfl, rfl, rfl, rfl, rfl, rfl, rfl, rfl⟩

/-- Settles O12: one clause for each head of the host's list. -/
theorem resetInputResetsTheRegisters : Obligations.ResetInputResetsTheRegisters := by
  refine fun rest s => ⟨fun hhost => ?_, fun hline w hhost => ?_, fun hline hhost => ?_⟩
  · simp [step, takeHostAction, hhost]
  · simp [step, takeHostAction, hhost, hline]
  · simp [step, takeHostAction, hhost, releaseReset, hline, State.reset]

/-- Settles O35. -/
theorem setFlagsWritesTheFiveSwitches : Obligations.SetFlagsWritesTheFiveSwitches :=
  fun df il cf ubf ext s => exec_eq_next (.setFlags df il cf ubf ext) s

/-- Settles O49: the line is a function of the timecode, the flags and UB. -/
theorem generateReadsOnlyItsRegisters : Obligations.GenerateReadsOnlyItsRegisters := by
  rintro s u ⟨hhour, hmin, hsec, hfrm, hrate, hdf, hcf, hubf, hext, hub, hsfa⟩
  have htimecode : s.regs.timecode = u.regs.timecode := by
    simp only [Registers.timecode, hhour, hmin, hsec, hfrm]
  have hflags : s.regs.lineFlags = u.regs.lineFlags := by
    rcases hsfa with hfilm | hsfa
    · rw [← lineFlags_sfa_of_film hfilm u.regs.sfa]
      simp only [Registers.lineFlags, hrate, hdf, hcf, hubf, hext]
    · simp only [Registers.lineFlags, hrate, hdf, hcf, hubf, hext, hsfa]
  have hline : s.regs.line = u.regs.line := by
    simp only [Registers.line, htimecode, hflags, hub]
  refine ⟨s.regs.line, exec_eq_next .generate s, ?_⟩
  rw [hline]
  exact exec_eq_next .generate u

/-- Settles O55. -/
theorem countTracksFieldsAtReset : Obligations.CountTracksFieldsAtReset :=
  reset_countTracksFields _

end Sys2Proof.Machine
end

section
/-! PROOFS. The user bits on the line, the responses along a step, and the serial form of a line. -/

namespace Sys2Proof.Machine

/-! ## The user bits on the line -/

/-- The user-bit slots of the line (R105): the checksum leaves them as the layout wrote them. -/
theorem getLsbD_line_userBits (r : Registers) {i : Nat} (hi : i < 80) (hslot : 6 ≤ i % 10) :
    r.line.getLsbD i = r.ub.getLsbD (4 * (i / 10) + (i % 10 - 6)) := by
  rw [Registers.line, getLsbD_checksum _ (by omega), if_neg (by omega),
    getLsbD_layout _ _ _ (by omega), if_pos ⟨hi, hslot⟩]

/-- Bits `10k+6 .. 10k+9` of the line are nibble `k` of UB (R53, R105). -/
theorem extractLsb'_line_userBits (r : Registers) {k : Nat} (hk : k < 8) :
    r.line.extractLsb' (10 * k + 6) 4 = userNibble r.ub k := by
  refine BitVec.eq_of_getLsbD_eq fun j hj => ?_
  rw [userNibble, BitVec.getLsbD_extractLsb', BitVec.getLsbD_extractLsb',
    getLsbD_line_userBits r (by omega) (by omega)]
  congr 2
  omega

/-- Two neighbouring nibbles, the higher first, are a byte of UB. -/
theorem userNibble_append (ub : UserWord) (i : Nat) :
    userNibble ub (2 * i + 1) ++ userNibble ub (2 * i) = ub.extractLsb' (8 * i) 8 := by
  refine BitVec.eq_of_getLsbD_eq fun j hj => ?_
  simp only [userNibble, BitVec.getLsbD_append, BitVec.getLsbD_extractLsb']
  by_cases hlow : j < 4
  · rw [if_pos hlow, show 4 * (2 * i) + j = 8 * i + j by omega, decide_eq_true hlow, decide_eq_true hj]
  · have hhigh : j - 4 < 4 := by omega
    rw [if_neg hlow, show 4 * (2 * i + 1) + (j - 4) = 8 * i + j by omega, decide_eq_true hhigh,
      decide_eq_true hj]

/-- Byte `i` of UB stands on the line in the slots of nibbles `2i` and `2i+1` (R53, R105). -/
theorem line_userByte (r : Registers) {i : Nat} (hi : i < 4) :
    r.line.extractLsb' (10 * (2 * i + 1) + 6) 4 ++ r.line.extractLsb' (10 * (2 * i) + 6) 4 =
      r.ub.extractLsb' (8 * i) 8 := by
  rw [extractLsb'_line_userBits r (by omega), extractLsb'_line_userBits r (by omega), userNibble_append]

/-- The packing as a number (R59). -/
theorem packUserBytes_toNat (b0 b1 b2 b3 : Byte) :
    (packUserBytes b0 b1 b2 b3).toNat =
      b0.toNat + b1.toNat * 2 ^ 8 + b2.toNat * 2 ^ 16 + b3.toNat * 2 ^ 24 := by
  simp only [packUserBytes, toNat_append_eq_add]
  ring

/-- Settles O48: SET_UB stores the packed payload, GENERATE lays it out, and the packing has the form
`tcw` of the four bytes, which reads them back. -/
theorem payloadBytesComeBackFromTheLine : Obligations.PayloadBytesComeBackFromTheLine := by
  intro b0 b1 b2 b3 s
  have hbyte {i : Nat} (hi : i < 4) :=
    line_userByte { s.regs with ub := packUserBytes b0 b1 b2 b3 } hi
  obtain ⟨h3, h2, h1, h0⟩ := tcw_operands b3 b2 b1 b0
  exact ⟨packUserBytes b0 b1 b2 b3, _, _, rfl, packUserBytes_toNat b0 b1 b2 b3, rfl,
    List.append_assoc _ _ _, (hbyte (i := 0) (by decide)).trans h0,
    (hbyte (i := 1) (by decide)).trans h1, (hbyte (i := 2) (by decide)).trans h2,
    (hbyte (i := 3) (by decide)).trans h3⟩

/-! ## The responses along a step -/

/-- A step gives no response, or one more of the legal form: the answer of a command that ran, or the
error of an illegal word (R57, R72). -/
theorem step_responses_cases {s t : State} (h : step s = .next t) :
    t.responses = s.responses ∨ ∃ r : Response, r.legal ∧ t.responses = s.responses ++ [r] := by
  rcases step_cases h with ⟨-, rfl⟩ | ⟨w, rest, -, -, rfl⟩ | ⟨w, i, rest, -, -, -, hexec⟩ |
    ⟨w, e, rest, -, -, -, rfl⟩ | ⟨rest, -, rfl⟩ | ⟨rest, -, rfl⟩
  case inr.inr.inl =>
    obtain ⟨r, a, hnext, hquiet⟩ := everyCommandGivesOneResponse i { s with host := rest }
    rw [hnext] at hexec
    cases hexec
    exact .inr ⟨a, fun hne => (hquiet hne).2, rfl⟩
  case inr.inr.inr.inl => exact .inr ⟨_, fun _ => rfl, rfl⟩
  all_goals exact .inl rfl

/-- Settles O58: a step adds at most one response, at the end of the list, and that one is legal. -/
theorem responsesStayLegal : Obligations.ResponsesStayLegal := by
  refine ⟨fun r hr => absurd hr List.not_mem_nil, fun s t hlegal hstep => ?_⟩
  rcases step_responses_cases hstep with heq | ⟨r, hr, heq⟩
  · rw [State.responsesLegal, heq]
    exact ⟨hlegal, List.prefix_rfl⟩
  · rw [State.responsesLegal, heq]
    refine ⟨fun q hq => ?_, List.prefix_append _ _⟩
    rcases List.mem_append.1 hq with hold | hnew
    · exact hlegal q hold
    · exact List.eq_of_mem_singleton hnew ▸ hr

/-! ## The serial form of a line -/

/-- Settles O52: the stream is the map of the bits over the indices 0 to 89. -/
theorem byteStreamSerialisesTheLine : Obligations.ByteStreamSerialisesTheLine := by
  intro l
  refine ⟨by rw [byteStream, List.length_map, List.length_range], fun i hi => ?_⟩
  rw [byteStream, List.getElem?_map, List.getElem?_range hi, Option.map_some]

end Sys2Proof.Machine
end

section
/-! PROOFS. The statements of the encoding: decoder and encoder are inverse to each other, one status per
command word, and the two fields of an interlaced PAL frame. -/

namespace Sys2Proof

/-! ## The word of its two fields -/

/-- A word is its opcode field followed by its argument field (R70). -/
theorem commandWord_fields (w : CommandWord) : commandWord (opcodeField w) (argField w) = w :=
  BitVec.extractLsb'_append_extractLsb'_eq_extractLsb' rfl |>.trans BitVec.extractLsb'_eq_self

theorem opcodeField_toNat (w : CommandWord) : (opcodeField w).toNat = w.toNat / 2 ^ 32 := by
  rw [opcodeField, BitVec.extractLsb'_toNat, Nat.shiftRight_eq_div_pow]
  omega

theorem argField_toNat (w : CommandWord) : (argField w).toNat = w.toNat % 2 ^ 32 := by
  rw [argField, BitVec.extractLsb'_toNat, Nat.shiftRight_zero]

/-! ## The argument forms -/

/-- The bits of an argument from `k` on are 0 exactly when the number is below `2 ^ k`. -/
theorem extractLsb'_high_eq_zero_iff (arg : Argument) {k n : Nat} (hk : k + n = 32) :
    arg.extractLsb' k n = 0 ↔ arg.toNat / 2 ^ k = 0 := by
  have hlt : arg.toNat / 2 ^ k < 2 ^ n := by
    rw [Nat.div_lt_iff_lt_mul (Nat.two_pow_pos k), ← pow_add, Nat.add_comm n k, hk]
    exact arg.isLt
  rw [← BitVec.toNat_inj, BitVec.extractLsb'_toNat, Nat.shiftRight_eq_div_pow, Nat.mod_eq_of_lt hlt]
  rfl

/-- Form `u8` (R71): a legal argument is its operand zero-extended. -/
theorem setWidth_u8Operand {arg : Argument} (hlegal : Form.u8.legal arg = true) :
    (u8Operand arg).setWidth 32 = arg := by
  have hsmall : arg.toNat / 2 ^ 8 = 0 :=
    (extractLsb'_high_eq_zero_iff arg rfl).1 (by simpa [Form.legal] using hlegal)
  apply BitVec.eq_of_toNat_eq
  rw [BitVec.toNat_setWidth, u8Operand, BitVec.extractLsb'_toNat, Nat.shiftRight_zero]
  omega

/-- Form `tcw` (R71): an argument is its four operands packed. -/
theorem append_tcw_operands (arg : Argument) :
    arg.extractLsb' 24 8 ++ arg.extractLsb' 16 8 ++ arg.extractLsb' 8 8 ++ arg.extractLsb' 0 8 = arg := by
  have hjoin (k n : Nat) : arg.extractLsb' (k + 8) n ++ arg.extractLsb' k 8 = arg.extractLsb' k (n + 8) :=
    BitVec.extractLsb'_append_extractLsb'_eq_extractLsb' rfl
  rw [hjoin 16, hjoin 8, hjoin 0]
  exact BitVec.extractLsb'_eq_self

/-- The five operands read from a small number packed again (R36). -/
theorem flagsWord_getLsbD_ofNat : ∀ n < 32,
    flagsWord ((BitVec.ofNat 32 n).getLsbD 0) ((BitVec.ofNat 32 n).getLsbD 1)
      ((BitVec.ofNat 32 n).getLsbD 2) ((BitVec.ofNat 32 n).getLsbD 3)
      ((BitVec.ofNat 32 n).getLsbD 4) = BitVec.ofNat 32 n := by decide

/-- Form `flags` (R36, R71): a legal argument is the flags word of its five low bits. -/
theorem flagsWord_getLsbD {arg : Argument} (hlegal : Form.flags.legal arg = true) :
    flagsWord (arg.getLsbD 0) (arg.getLsbD 1) (arg.getLsbD 2) (arg.getLsbD 3) (arg.getLsbD 4) = arg := by
  have hsmall : arg.toNat / 2 ^ 5 = 0 :=
    (extractLsb'_high_eq_zero_iff arg rfl).1 (by simpa [Form.legal] using hlegal)
  have hpacked := flagsWord_getLsbD_ofNat arg.toNat (by omega)
  rwa [BitVec.ofNat_toNat, BitVec.setWidth_eq] at hpacked

/-- The command a row reads from a legal argument has the row's opcode and that argument, and is well
formed (R71, R74). -/
theorem operands_of_row {opc : Nat} {form : Form} {operands : Argument → Instr} {arg : Argument}
    (hrow : opcodeRow opc = some (form, operands)) (hlegal : form.legal arg = true) :
    (operands arg).opcode.toNat = opc ∧ (operands arg).argument = arg ∧
      (operands arg).wellFormed = true := by
  match opc, hrow with
  | 0x00, hrow | 0x08, hrow | 0x09, hrow | 0x0A, hrow | 0x0D, hrow | 0x0E, hrow | 0x0F, hrow
  | 0x10, hrow =>
    cases hrow
    exact ⟨rfl, (eq_of_beq hlegal).symm, rfl⟩
  | 0x01, hrow | 0x02, hrow | 0x03, hrow | 0x04, hrow =>
    cases hrow
    exact ⟨rfl, setWidth_u8Operand hlegal, rfl⟩
  | 0x05, hrow =>
    cases hrow
    exact ⟨rfl, append_tcw_operands arg, rfl⟩
  | 0x06, hrow | 0x0C, hrow =>
    cases hrow
    exact ⟨rfl, rfl, rfl⟩
  | 0x07, hrow =>
    cases hrow
    exact ⟨rfl, rfl, hlegal⟩
  | 0x0B, hrow =>
    cases hrow
    exact ⟨rfl, flagsWord_getLsbD hlegal, rfl⟩
  | n + 0x11, hrow =>
    rw [(opcodeRow_eq_none _).2 (by omega)] at hrow
    cases hrow

/-- A word decodes to a command only as the encoding of it, and only if it is well formed (R71, R77). -/
theorem encode_of_decode {w : CommandWord} {i : Instr} (hdecode : decode w = .ok i) :
    i.wellFormed = true ∧ encode i = w := by
  rcases decode_cases w with ⟨-, herror⟩ | ⟨form, operands, hrow, ⟨hlegal, hok⟩ | ⟨-, herror⟩⟩
  · cases hdecode.symm.trans herror
  · cases hdecode.symm.trans hok
    obtain ⟨hopcode, hargument, hwf⟩ := operands_of_row hrow hlegal
    refine ⟨hwf, ?_⟩
    rw [encode, hargument, BitVec.eq_of_toNat_eq hopcode, commandWord_fields]
  · cases hdecode.symm.trans herror

/-- An argument is legal for its row's form exactly when the table of R252 does not refuse it. -/
theorem legal_iff_of_row {opc : Nat} {form : Form} {operands : Argument → Instr}
    (hrow : opcodeRow opc = some (form, operands)) (arg : Argument) :
    form.legal arg = true ↔ Machine.argumentIllegal opc arg.toNat = false := by
  match opc, hrow with
  | 0x00, hrow | 0x08, hrow | 0x09, hrow | 0x0A, hrow | 0x0D, hrow | 0x0E, hrow | 0x0F, hrow
  | 0x10, hrow =>
    cases hrow
    simp [Form.legal, Machine.argumentIllegal, ← BitVec.toNat_inj]
  | 0x01, hrow | 0x02, hrow | 0x03, hrow | 0x04, hrow =>
    cases hrow
    have hhigh := extractLsb'_high_eq_zero_iff arg (k := 8) (n := 24) rfl
    simpa [Form.legal, Machine.argumentIllegal] using hhigh
  | 0x05, hrow | 0x06, hrow | 0x0C, hrow =>
    cases hrow
    simp [Form.legal, Machine.argumentIllegal]
  | 0x07, hrow =>
    cases hrow
    simp [Form.legal, Machine.argumentIllegal, ← BitVec.toNat_inj, or_iff_not_imp_left]
  | 0x0B, hrow =>
    cases hrow
    have hhigh := extractLsb'_high_eq_zero_iff arg (k := 5) (n := 27) rfl
    simpa [Form.legal, Machine.argumentIllegal] using hhigh
  | n + 0x11, hrow =>
    rw [(opcodeRow_eq_none _).2 (by omega)] at hrow
    cases hrow

end Sys2Proof

namespace Sys2Proof.Machine

/-- Settles O2: the row of each command's opcode reads back what its argument packs. -/
theorem decodeOfEncode : Obligations.DecodeOfEncode := fun _ hwf => decode_encode hwf

/-- Settles O3: what a row reads from a legal argument packs to that argument, and opcode and argument are
the whole word. -/
theorem encodeOfDecode : Obligations.EncodeOfDecode := fun _ _ hdecode => encode_of_decode hdecode

/-- Settles O1: each example word is the encoding of its command. -/
theorem exampleWordsDecode : Obligations.ExampleWordsDecode :=
  ⟨decode_encode (i := .setRate 25) rfl, decode_encode (i := .setTc 1 2 3 4) rfl,
    decode_encode (i := .setFlags true true false false false) rfl, decode_encode (i := .step) rfl,
    decode_encode (i := .generate) rfl⟩

/-! ## One status per command word -/

/-- A well-formed command answers OK (R73): its rate, if it has one, is one of the three (R160). -/
theorem answer_status_of_wellFormed {i : Instr} (hwf : i.wellFormed = true) (r : Registers) :
    (i.answer r).status = .ok := by
  cases i with
  | setRate n =>
    have hrate : (n = 24 ∨ n = 25) ∨ n = 30 := by simpa [Instr.wellFormed] using hwf
    rcases hrate with (rfl | rfl) | rfl <;> rfl
  | _ => rfl

/-- A word is answered once, with the status that R253 gives it, the opcode check first. -/
theorem runCommand_status (w : CommandWord) (s : State) :
    ∃ t d, runCommand w s = .next t ∧ t.responses = s.responses ++
      [⟨if 0x10 < w.toNat / 2 ^ 32 then .badOpcode
        else if argumentIllegal (w.toNat / 2 ^ 32) (w.toNat % 2 ^ 32) = true then .badArg
        else .ok, d⟩] := by
  rw [← opcodeField_toNat, ← argField_toNat]
  rcases decode_cases w with ⟨hreserved, hdecode⟩ | ⟨form, operands, hrow, hargument⟩
  · rw [if_pos ((opcodeRow_eq_none _).1 hreserved), runCommand, hdecode]
    exact ⟨_, 0, rfl, rfl⟩
  have hassigned : ¬ 0x10 < (opcodeField w).toNat := by
    rw [← opcodeRow_eq_none, hrow]
    exact Option.some_ne_none _
  rw [if_neg hassigned]
  have hlegal := legal_iff_of_row hrow (argField w)
  rcases hargument with ⟨hok, hdecode⟩ | ⟨hbad, hdecode⟩
  · obtain ⟨hwf, -⟩ := encode_of_decode hdecode
    rw [if_neg (by simpa [hok] using hlegal), runCommand_of_decode_ok hdecode, exec_eq_next,
      ← answer_status_of_wellFormed hwf s.regs]
    exact ⟨_, _, rfl, rfl⟩
  · rw [if_pos (by simpa [hbad] using hlegal), runCommand, hdecode]
    exact ⟨_, 0, rfl, rfl⟩

/-- Settles O6: the word is taken, then its status is that of the decoder, since a command that decodes
answers OK. -/
theorem oneStatusPerCommand : Obligations.OneStatusPerCommand := by
  intro w rest s hhost hreset
  rw [step_of_command hhost hreset]
  exact runCommand_status w { s with host := rest }

/-! ## The two fields of a PAL frame -/

/-- The parity over a list of bits is linear, from any two starting parities. -/
theorem foldl_xor_getLsbD_xor (js : List Nat) (p q : Line) (a b : Bool) :
    js.foldl (fun acc j => xor acc ((p ^^^ q).getLsbD j)) (xor a b) =
      xor (js.foldl (fun acc j => xor acc (p.getLsbD j)) a)
        (js.foldl (fun acc j => xor acc (q.getLsbD j)) b) := by
  induction js generalizing a b with
  | nil => rfl
  | cons j js ih =>
    simp only [List.foldl_cons, BitVec.getLsbD_xor, ← ih]
    congr 1
    simp only [Bool.xor_assoc, Bool.xor_left_comm]

theorem parityOver_xor (js : List Nat) (p q : Line) :
    parityOver js (p ^^^ q) = xor (parityOver js p) (parityOver js q) :=
  foldl_xor_getLsbD_xor js p q false false

/-- The checksum stage is linear over XOR (R135). -/
theorem checksum_xor (p q : Line) : checksum (p ^^^ q) = checksum p ^^^ checksum q := by
  refine BitVec.eq_of_getLsbD_eq fun i hi => ?_
  rw [BitVec.getLsbD_xor]
  simp only [getLsbD_checksum _ hi, parityOver_xor, BitVec.getLsbD_xor]
  split <;> rfl

/-- Flipping the PAL-second-field flag flips bit 75 of the layout alone (R104, R112). -/
theorem layout_b75 (t : Timecode) (fl : LineFlags) (ub : UserWord) :
    layout t { fl with b75 := true } ub =
      layout t { fl with b75 := false } ub ^^^ BitVec.twoPow 90 75 := by
  refine BitVec.eq_of_getLsbD_eq fun i hi => ?_
  rw [BitVec.getLsbD_xor, BitVec.getLsbD_twoPow, getLsbD_layout _ _ _ hi, getLsbD_layout _ _ _ hi]
  simp only [putFlags, putBit_apply]
  by_cases h75 : i = 75
  · simp [h75]
  · simp [h75, Ne.symm h75]

/-- Under PAL the flags depend on SFA in bit 75 alone (R201). -/
theorem lineFlags_sfa_of_pal {r : Registers} (hrate : r.rate = .pal) (b : Bool) :
    { r with sfa := b }.lineFlags = { r.lineFlags with b75 := b } := by
  have hntsc : (Rate.pal == .ntsc) = false := rfl
  simp [Registers.lineFlags, hrate, hntsc]

/-- Under PAL the line of the second field is that of the first with the checksummed bit 75 added. -/
theorem line_sfa_of_pal {r : Registers} (hrate : r.rate = .pal) :
    { r with sfa := true }.line =
      { r with sfa := false }.line ^^^ checksum (BitVec.twoPow 90 75) := by
  have hline (b : Bool) : { r with sfa := b }.line =
      checksum (layout r.timecode { r.lineFlags with b75 := b } r.ub) :=
    congrArg (fun fl => checksum (layout r.timecode fl r.ub)) (lineFlags_sfa_of_pal hrate b)
  rw [hline, hline, layout_b75, checksum_xor]

/-- Bit 75 counts in the one checksum bit 83 (R131). -/
theorem getLsbD_checksum_twoPow_75 {i : Nat} (hi : i < 90) :
    (checksum (BitVec.twoPow 90 75)).getLsbD i = decide (i = 75 ∨ i = 83) := by
  rw [getLsbD_checksum _ hi]
  split
  next hparity => interval_cases i <;> rfl
  next hbelow =>
    have h83 : i ≠ 83 := by omega
    simp [BitVec.getLsbD_twoPow, h83, eq_comm]

/-- Bit 75 of the line is the PAL-second-field flag (R107, R201). -/
theorem getLsbD_line_75 (r : Registers) : r.line.getLsbD 75 = (r.sfa && (r.rate == .pal)) := by
  rw [Registers.line, getLsbD_checksum _ (by decide), if_neg (by decide),
    getLsbD_layout _ _ _ (by decide), if_neg (by decide)]
  rfl

/-- A run of commands goes on from what its first command leaves and answers. -/
theorem execAll_cons (i : Instr) (is : List Instr) (s : State) :
    execAll (i :: is) s = execAll is
      { s with regs := i.regsAfter s.regs, responses := s.responses ++ [i.answer s.regs] } := by
  rw [execAll, exec_eq_next]

/-- Three commands answer in order, each from the registers the one before leaves. -/
theorem execAll_three (i j k : Instr) (s : State) :
    execAll [i, j, k] s = .next
      { s with regs := k.regsAfter (j.regsAfter (i.regsAfter s.regs)),
               responses := s.responses ++ [i.answer s.regs, j.answer (i.regsAfter s.regs),
                 k.answer (j.regsAfter (i.regsAfter s.regs))] } := by
  rw [execAll_cons, execAll_cons, execAll_cons, execAll]
  simp only [List.append_assoc, List.cons_append, List.nil_append]

/-- The pseudo-instruction `FIELDS2` (R79) answers the line of the registers, and that of the registers
that SWITCH_FIELD leaves. -/
theorem execAll_fields2 (s : State) :
    execAll fields2 s = .next
      { s with regs := Instr.switchField.regsAfter s.regs,
               responses := s.responses ++ [⟨.ok, s.regs.line⟩, ⟨.ok, 0⟩,
                 ⟨.ok, (Instr.switchField.regsAfter s.regs).line⟩] } :=
  execAll_three .generate .switchField .generate s

/-- Settles O51: SWITCH_FIELD sets SFA, which adds the checksummed bit 75 to the line. -/
theorem palFieldsDifferInTwoBits : Obligations.PalFieldsDifferInTwoBits := by
  intro s hrate hil hsfa
  have hfirst : { s.regs with sfa := false } = s.regs := by rw [← hsfa]
  have hsecond : Instr.switchField.regsAfter s.regs = { s.regs with sfa := true } := by
    simp [Instr.regsAfter, hil, hsfa]
  have hflip := line_sfa_of_pal hrate
  rw [hfirst] at hflip
  have hrun := execAll_fields2 s
  rw [hsecond] at hrun
  refine ⟨_, s.regs.line, { s.regs with sfa := true }.line, hrun, rfl, ?_, ?_, fun i hi => ?_⟩
  · rw [getLsbD_line_75, hsfa, Bool.false_and]
  · rw [getLsbD_line_75, hrate]
    rfl
  · rw [hflip, BitVec.getLsbD_xor, getLsbD_checksum_twoPow_75 hi]
    by_cases hbits : i = 75 ∨ i = 83 <;> simp [hbits]

end Sys2Proof.Machine
end

section
/-! PROOFS. The bit map of a generated line: the digits, the constant bits, the flags and the user bits. -/

namespace Sys2Proof.Machine

/-! ## The digit slots of the layout -/

/-- A number laid into consecutive line bits, least significant bit first (R103, R112). -/
structure BitSlot where
  base : Nat
  value : Nat
  width : Nat

/-- The eight digit fields of a timecode, in line order (R102, R103); `putDigits_eq` ties them to the
encoder. -/
def digitSlots (t : Timecode) : List BitSlot :=
  [⟨2, t.frame % 10, 4⟩, ⟨12, t.frame / 10 % 4, 2⟩, ⟨22, t.second % 10, 4⟩, ⟨32, t.second / 10 % 8, 3⟩,
    ⟨42, t.minute % 10, 4⟩, ⟨52, t.minute / 10 % 8, 3⟩, ⟨62, t.hour % 10, 4⟩, ⟨72, t.hour / 10 % 4, 2⟩]

/-- Lays the numbers of the slots in, first slot first. -/
def putSlots (slots : List BitSlot) (p : LineBits) : LineBits :=
  slots.foldl (fun q d => put d.base d.value d.width q) p

theorem putDigits_eq (t : Timecode) (p : LineBits) : putDigits t p = putSlots (digitSlots t) p := rfl

theorem putSlots_cons (d : BitSlot) (slots : List BitSlot) (p : LineBits) :
    putSlots (d :: slots) p = putSlots slots (put d.base d.value d.width p) := rfl

/-- A bit outside every slot is left as it was. -/
theorem putSlots_apply_of_outside {slots : List BitSlot} {i : Nat}
    (hout : ∀ d ∈ slots, i < d.base ∨ d.base + d.width ≤ i) (p : LineBits) :
    putSlots slots p i = p i := by
  induction slots generalizing p with
  | nil => rfl
  | cons d slots ih =>
    obtain ⟨hhead, htail⟩ := List.forall_mem_cons.1 hout
    rw [putSlots_cons, ih htail, put_apply, if_neg (by omega)]

/-- A bit of a slot is that bit of its number: slots in line order do not overwrite each other. -/
theorem putSlots_apply_of_mem {slots : List BitSlot} {d : BitSlot} {j : Nat}
    (hordered : slots.Pairwise fun a b => a.base + a.width ≤ b.base) (hd : d ∈ slots)
    (hj : j < d.width) (p : LineBits) :
    putSlots slots p (d.base + j) = d.value.testBit j := by
  induction slots generalizing p with
  | nil => cases hd
  | cons a slots ih =>
    obtain ⟨hfirst, hrest⟩ := List.pairwise_cons.1 hordered
    rw [putSlots_cons]
    rcases List.mem_cons.1 hd with rfl | hmem
    · have hlater : ∀ b ∈ slots, d.base + j < b.base ∨ b.base + b.width ≤ d.base + j :=
        fun b hb => .inl (by have := hfirst b hb; omega)
      rw [putSlots_apply_of_outside hlater, put_apply, if_pos (by omega), Nat.add_sub_cancel_left]
    · exact ih hrest hmem _

theorem digitSlots_ordered (t : Timecode) :
    (digitSlots t).Pairwise fun a b => a.base + a.width ≤ b.base := by
  simp [digitSlots]

/-- The line bits of the six flags (R104). -/
def flagIndices : List Nat := [14, 15, 35, 55, 74, 75]

theorem mem_flagIndices_iff {i : Nat} :
    i ∈ flagIndices ↔ i = 14 ∨ i = 15 ∨ i = 35 ∨ i = 55 ∨ i = 74 ∨ i = 75 := by
  simp [flagIndices]

theorem putFlags_apply_of_notMem {i : Nat} (hi : i ∉ flagIndices) (fl : LineFlags) (p : LineBits) :
    putFlags fl p i = p i := by
  simp only [mem_flagIndices_iff, not_or] at hi
  simp only [putFlags, putBit_apply, hi, if_false]

/-- A digit slot keeps to the positions +2 to +5 of one of the groups 0 to 7, off the flag bits, and its
digit fits it (R103, R107). -/
theorem digitSlots_place {t : Timecode} {d : BitSlot} (hd : d ∈ digitSlots t) :
    d.value < 2 ^ d.width ∧ ∀ i, d.base ≤ i → i < d.base + d.width →
      i < 80 ∧ 2 ≤ i % 10 ∧ i % 10 < 6 ∧ i ∉ flagIndices := by
  simp only [digitSlots, List.mem_cons, List.not_mem_nil, or_false] at hd
  simp only [mem_flagIndices_iff]
  rcases hd with rfl | rfl | rfl | rfl | rfl | rfl | rfl | rfl <;>
    exact ⟨by dsimp only; omega, fun i hlo hhi => by dsimp only at hlo hhi; omega⟩

/-! ## The bits of the line -/

/-- Apart from the user bits, the line's bits 0 to 81 are the sync bits, the digits and the flags
(R101 to R104, R130). -/
theorem getLsbD_line_of_not_userBits (r : Registers) {i : Nat} (hi : i < 82)
    (hslot : ¬(i < 80 ∧ 6 ≤ i % 10)) :
    r.line.getLsbD i = putFlags r.lineFlags (putDigits r.timecode syncBits) i := by
  rw [Registers.line, getLsbD_checksum _ (by omega), if_neg (by omega), getLsbD_layout _ _ _ (by omega),
    if_neg hslot]

theorem syncBits_group {g : Nat} (hg : g < 9) : syncBits (10 * g) = true := by
  have hlast : 10 * g ≤ 80 := by omega
  simp [syncBits, hlast]

theorem syncBits_group_succ (g : Nat) : syncBits (10 * g + 1) = false := by
  simp [syncBits]

/-- The first two bits of every group are the sync bit and the constant 0 (R110). -/
theorem getLsbD_line_constant (r : Registers) {i : Nat} (hi : i < 82) (hpos : i % 10 < 2) :
    r.line.getLsbD i = syncBits i := by
  have hflags : i ∉ flagIndices := by
    rw [mem_flagIndices_iff]
    omega
  have hdigits : ∀ d ∈ digitSlots r.timecode, i < d.base ∨ d.base + d.width ≤ i := by
    intro d hd
    by_contra hin
    obtain ⟨-, hplace⟩ := digitSlots_place hd
    obtain ⟨-, hafter, -⟩ := hplace i (by omega) (by omega)
    omega
  rw [getLsbD_line_of_not_userBits r hi (by omega), putFlags_apply_of_notMem hflags, putDigits_eq,
    putSlots_apply_of_outside hdigits]

theorem getLsbD_line_digit (r : Registers) {d : BitSlot} {j : Nat} (hd : d ∈ digitSlots r.timecode)
    (hj : j < d.width) : r.line.getLsbD (d.base + j) = d.value.testBit j := by
  obtain ⟨-, hplace⟩ := digitSlots_place hd
  obtain ⟨hi, -, hpos, hflags⟩ := hplace (d.base + j) (by omega) (by omega)
  rw [getLsbD_line_of_not_userBits r (by omega) (by omega), putFlags_apply_of_notMem hflags, putDigits_eq,
    putSlots_apply_of_mem (digitSlots_ordered _) hd hj]

theorem testBit_lineField (l : Line) (base : Nat) {width j : Nat} (hj : j < width) :
    (lineField l base width).testBit j = l.getLsbD (base + j) := by
  rw [lineField, BitVec.testBit_toNat, BitVec.getLsbD_extractLsb', decide_eq_true hj, Bool.true_and]

theorem lineField_lt (l : Line) (base width : Nat) : lineField l base width < 2 ^ width :=
  BitVec.isLt _

/-- A digit slot of the line, read as a number, is its digit (R103). -/
theorem lineField_line_digit (r : Registers) {d : BitSlot} (hd : d ∈ digitSlots r.timecode) :
    lineField r.line d.base d.width = d.value := by
  refine Nat.eq_of_testBit_eq fun j => ?_
  by_cases hj : j < d.width
  · rw [testBit_lineField _ _ hj, getLsbD_line_digit r hd hj]
  · have hwide : 2 ^ d.width ≤ 2 ^ j := Nat.pow_le_pow_right (by decide) (by omega)
    rw [Nat.testBit_lt_two_pow ((lineField_lt _ _ _).trans_le hwide),
      Nat.testBit_lt_two_pow ((digitSlots_place hd).1.trans_le hwide)]

/-- The eight digit fields of the line of any registers (R102, R108). -/
theorem lineField_line_digits (r : Registers) :
    lineField r.line 2 4 = r.frm.toNat % 10 ∧ lineField r.line 12 2 = r.frm.toNat / 10 % 4 ∧
    lineField r.line 22 4 = r.sec.toNat % 10 ∧ lineField r.line 32 3 = r.sec.toNat / 10 % 8 ∧
    lineField r.line 42 4 = r.min.toNat % 10 ∧ lineField r.line 52 3 = r.min.toNat / 10 % 8 ∧
    lineField r.line 62 4 = r.hour.toNat % 10 ∧ lineField r.line 72 2 = r.hour.toNat / 10 % 4 := by
  have hdigits : ∀ d ∈ digitSlots r.timecode, lineField r.line d.base d.width = d.value :=
    fun _ => lineField_line_digit r
  simp only [digitSlots, List.forall_mem_cons, List.not_mem_nil, false_implies, implies_true,
    and_true] at hdigits
  exact hdigits

/-- The six flag bits of the line (R104, R107). -/
theorem getLsbD_line_flags (r : Registers) :
    r.line.getLsbD 14 = r.lineFlags.b14 ∧ r.line.getLsbD 15 = r.lineFlags.b15 ∧
    r.line.getLsbD 35 = r.lineFlags.b35 ∧ r.line.getLsbD 55 = r.lineFlags.b55 ∧
    r.line.getLsbD 74 = r.lineFlags.b74 ∧ r.line.getLsbD 75 = r.lineFlags.b75 := by
  refine ⟨?_, ?_, ?_, ?_, ?_, ?_⟩ <;>
    exact getLsbD_line_of_not_userBits r (by decide) (by decide)

/-- Bit `i` of nibble `k` on the line (R105, R111). -/
theorem getLsbD_line_userNibble (r : Registers) {k i : Nat} (hk : k < 8) (hi : i < 4) :
    r.line.getLsbD (10 * k + 6 + i) = r.ub.getLsbD (4 * k + i) := by
  rw [getLsbD_line_userBits r (by omega) (by omega)]
  congr 1
  omega

/-- The eight nibbles, the highest first, are UB again (R53). -/
theorem userNibbles_append (ub : UserWord) :
    userNibble ub 7 ++ userNibble ub 6 ++ userNibble ub 5 ++ userNibble ub 4 ++ userNibble ub 3
      ++ userNibble ub 2 ++ userNibble ub 1 ++ userNibble ub 0 = ub := by
  have hjoin (k n : Nat) :
      ub.extractLsb' (4 * (k + 1)) n ++ userNibble ub k = ub.extractLsb' (4 * k) (n + 4) :=
    BitVec.extractLsb'_append_extractLsb'_eq_extractLsb' rfl
  rw [show userNibble ub 7 = ub.extractLsb' (4 * 7) 4 from rfl, hjoin 6, hjoin 5, hjoin 4, hjoin 3,
    hjoin 2, hjoin 1, hjoin 0]
  exact BitVec.extractLsb'_eq_self

/-! ## The statements -/

/-- Settles O46. -/
theorem digitsAreTruncatedToTheirWidths : Obligations.DigitsAreTruncatedToTheirWidths :=
  fun s => ⟨s.regs.line, exec_eq_next .generate s, lineField_line_digits s.regs⟩

/-- Settles O45: the tens digits of an in-range timecode fit their widths, so nothing is truncated. -/
theorem digitsOfTheLineGiveTheFields : Obligations.DigitsOfTheLineGiveTheFields := by
  intro s hfrm hsec hmin hhour
  obtain ⟨l, hexec, hfu, hft, hsu, hst, hmu, hmt, hhu, hht⟩ := digitsAreTruncatedToTheirWidths s
  exact ⟨l, hexec, by omega, by omega, by omega, by omega⟩

/-- Settles O47. -/
theorem userBitsOfTheLineGiveTheRegister : Obligations.UserBitsOfTheLineGiveTheRegister := by
  intro s
  have hnibble {k : Nat} (hk : k < 8) := extractLsb'_line_userBits s.regs hk
  refine ⟨s.regs.line, exec_eq_next .generate s, fun _ _ => getLsbD_line_userNibble s.regs, ?_⟩
  rw [hnibble (k := 7) (by decide), hnibble (k := 6) (by decide), hnibble (k := 5) (by decide),
    hnibble (k := 4) (by decide), hnibble (k := 3) (by decide), hnibble (k := 2) (by decide),
    hnibble (k := 1) (by decide), hnibble (k := 0) (by decide), userNibbles_append]

/-- Settles O40: the constant bits, the digits by their bits (the low bits of a tens quotient are its
own), the user nibbles and the flags. -/
theorem generateFollowsTheBitMap : Obligations.GenerateFollowsTheBitMap := by
  intro s
  obtain ⟨hfu, hft, hsu, hst, hmu, hmt, hhu, hht⟩ := lineField_line_digits s.regs
  have hbit {base width v i : Nat} (hfield : lineField s.regs.line base width = v) (hi : i < width) :
      s.regs.line.getLsbD (base + i) = v.testBit i := by
    rw [← hfield, testBit_lineField _ _ hi]
  have hlow {base width q i : Nat} (hfield : lineField s.regs.line base width = q % 2 ^ width)
      (hi : i < width) : s.regs.line.getLsbD (base + i) = q.testBit i := by
    rw [hbit hfield hi, Nat.testBit_mod_two_pow, decide_eq_true hi, Bool.true_and]
  refine ⟨s.regs.line, exec_eq_next .generate s, fun g hg => ⟨?_, ?_⟩,
    fun i hi => ⟨hbit hfu hi, hbit hsu hi, hbit hmu hi, hbit hhu hi⟩,
    fun i hi => ⟨hlow hft hi, hlow hht hi⟩, fun i hi => ⟨hlow hst hi, hlow hmt hi⟩,
    fun _ _ => getLsbD_line_userNibble s.regs, getLsbD_line_flags s.regs⟩
  · rw [getLsbD_line_constant _ (by omega) (by omega), syncBits_group hg]
  · rw [getLsbD_line_constant _ (by omega) (by omega), syncBits_group_succ]

end Sys2Proof.Machine
end

section
/-! PROOFS. The parities of the checksum stage: the residue classes modulo 8, class by class. -/

namespace Sys2Proof.Machine

/-! ## The parity of a residue class -/

theorem classParity_eq_parityOver (n c : Nat) (l : Line) :
    classParity n c l = parityOver ((List.range n).filter fun j => j % 8 == c) l :=
  rfl

@[simp] theorem classParity_zero (c : Nat) (l : Line) : classParity 0 c l = false := rfl

/-- One index more counts in the parity exactly if it is in the class. -/
theorem classParity_succ (n c : Nat) (l : Line) :
    classParity (n + 1) c l = xor (classParity n c l) (decide (n % 8 = c) && l.getLsbD n) := by
  rw [classParity, classParity, List.range_succ, List.filter_append, List.foldl_append]
  by_cases hclass : n % 8 = c <;> simp [hclass]

/-- A class parity reads only the bits below its bound. -/
theorem classParity_congr {n : Nat} {p q : Line} (c : Nat)
    (h : ∀ j, j < n → p.getLsbD j = q.getLsbD j) : classParity n c p = classParity n c q := by
  induction n with
  | zero => rfl
  | succ n ih =>
    rw [classParity_succ, classParity_succ, ih fun j hj => h j (by omega), h n (by omega)]

/-- Raising the bound past indices outside the class leaves the parity alone. -/
theorem classParity_eq_of_no_member {n m c : Nat} (hnm : n ≤ m)
    (h : ∀ j, n ≤ j → j < m → j % 8 ≠ c) (l : Line) : classParity m c l = classParity n c l := by
  induction m, hnm using Nat.le_induction with
  | base => rfl
  | succ m hle ih =>
    rw [classParity_succ, ih fun j hlo hhi => h j hlo (by omega),
      decide_eq_false (h m hle (by omega)), Bool.false_and, Bool.xor_false]

/-- Eight consecutive indices add one member of each class. -/
theorem classParity_add_eight {n i : Nat} (hlo : n ≤ i) (hhi : i < n + 8) (l : Line) :
    classParity (n + 8) (i % 8) l = xor (classParity n (i % 8) l) (l.getLsbD i) :=
  calc classParity (n + 8) (i % 8) l
      = classParity (i + 1) (i % 8) l := classParity_eq_of_no_member (by omega) (by omega) l
    _ = xor (classParity i (i % 8) l) (l.getLsbD i) := by
        rw [classParity_succ, decide_eq_true rfl, Bool.true_and]
    _ = xor (classParity n (i % 8) l) (l.getLsbD i) := by
        rw [classParity_eq_of_no_member hlo (by omega)]

/-- A line of the one bit `j` has odd parity in the class of `j` alone. -/
theorem classParity_twoPow {j : Nat} (hj : j < 90) (n c : Nat) :
    classParity n c (BitVec.twoPow 90 j) = decide (j < n ∧ j % 8 = c) := by
  induction n with
  | zero => simp
  | succ n ih =>
    rw [classParity_succ, ih, BitVec.getLsbD_twoPow]
    by_cases hjn : j = n
    · subst hjn
      simp [hj]
    · have hbound : j < n + 1 ↔ j < n := by omega
      simp [hjn, hbound]

/-! ## The bits of the checksummed line -/

/-- The listed sets are the residue classes of the indices below 82 (R131, R132). -/
theorem paritySet_eq_class :
    ∀ i ∈ List.range' 82 8, paritySet i = (List.range 82).filter fun j => j % 8 == i % 8 := by
  decide

theorem getLsbD_checksum_of_lt (p : Line) {i : Nat} (hi : i < 82) :
    (checksum p).getLsbD i = p.getLsbD i := by
  rw [getLsbD_checksum p (by omega), if_neg (by omega)]

/-- A checksum bit is the parity of its class in the input (R130, R132). -/
theorem getLsbD_checksum_of_ge (p : Line) {i : Nat} (hlo : 82 ≤ i) (hhi : i < 90) :
    (checksum p).getLsbD i = classParity 82 (i % 8) p := by
  have hmem : i ∈ List.range' 82 8 := List.mem_range'_1.2 ⟨hlo, hhi⟩
  rw [getLsbD_checksum p hhi, if_pos hlo, paritySet_eq_class i hmem, classParity_eq_parityOver]

/-- The checksum stage keeps the parities that it computes from. -/
theorem classParity_checksum (c : Nat) (p : Line) :
    classParity 82 c (checksum p) = classParity 82 c p :=
  classParity_congr c fun _ => getLsbD_checksum_of_lt p

/-- Every class of a checksummed line is even: its checksum bit repeats the parity of the rest (R133). -/
theorem classParity_checksum_whole {c : Nat} (hc : c < 8) (p : Line) :
    classParity 90 c (checksum p) = false := by
  obtain ⟨i, hlo, hhi, rfl⟩ : ∃ i, 82 ≤ i ∧ i < 82 + 8 ∧ i % 8 = c :=
    ⟨82 + (c + 6) % 8, by omega, by omega, by omega⟩
  rw [classParity_add_eight hlo hhi, classParity_checksum, getLsbD_checksum_of_ge p hlo hhi,
    Bool.xor_self]

/-- The checksum stage is idempotent: it reads only bits that it keeps (R136). -/
theorem checksum_checksum (p : Line) : checksum (checksum p) = checksum p := by
  refine BitVec.eq_of_getLsbD_eq fun i hi => ?_
  by_cases hlow : i < 82
  · rw [getLsbD_checksum_of_lt _ hlow]
  · have hlo : 82 ≤ i := by omega
    rw [getLsbD_checksum_of_ge _ hlo hi, getLsbD_checksum_of_ge _ hlo hi, classParity_checksum]

/-- Flipping bit `j` of the input flips the checksum bits of the class of `j` (R135). -/
theorem getLsbD_checksum_flip (p : Line) {i j : Nat} (hj : j < 82) (hlo : 82 ≤ i) (hhi : i < 90) :
    (checksum (p ^^^ BitVec.twoPow 90 j)).getLsbD i =
      xor ((checksum p).getLsbD i) (decide (i % 8 = j % 8)) := by
  rw [checksum_xor, BitVec.getLsbD_xor, getLsbD_checksum_of_ge (BitVec.twoPow 90 j) hlo hhi,
    classParity_twoPow (by omega)]
  simp only [hj, true_and, eq_comm]

/-- Under PAL the lines of the two fields differ in bit 75 and its checksum bit 83 (R135). -/
theorem getLsbD_line_sfa_ne_iff {r : Registers} (hrate : r.rate = .pal) {i : Nat} (hi : i < 90) :
    { r with sfa := true }.line.getLsbD i ≠ { r with sfa := false }.line.getLsbD i ↔
      i = 75 ∨ i = 83 := by
  rw [line_sfa_of_pal hrate, BitVec.getLsbD_xor, getLsbD_checksum_twoPow_75 hi]
  by_cases hbits : i = 75 ∨ i = 83 <;> simp [hbits]

/-! ## The statements -/

/-- Settles O41: bits 0 to 81 are kept and each checksum bit is the parity of its class, the listed sets
being the classes. -/
theorem checksumSetsTheParities : Obligations.ChecksumSetsTheParities :=
  ⟨paritySet_eq_class, fun p =>
    ⟨fun _ => getLsbD_checksum_of_lt p, fun _ => getLsbD_checksum_of_ge p⟩⟩

/-- Settles O42: a generated line is a checksummed one. -/
theorem wholeLineParityIsEven : Obligations.WholeLineParityIsEven := fun s =>
  ⟨s.regs.line, exec_eq_next .generate s, fun _ hc => classParity_checksum_whole hc _⟩

/-- Settles O43: by linearity the flipped bit adds its own checksum, and under PAL SFA is such a flip of
bit 75. -/
theorem checksumIsLinear : Obligations.ChecksumIsLinear :=
  ⟨fun p _ hj _ => getLsbD_checksum_flip p (Nat.lt_succ_of_le hj),
    fun _ hrate _ => getLsbD_line_sfa_ne_iff hrate⟩

/-- Settles O44: a generated line is a checksummed one, and the stage is idempotent. -/
theorem checksumOfAGeneratedLineIsItself : Obligations.ChecksumOfAGeneratedLineIsItself := fun s =>
  ⟨s.regs.line, exec_eq_next .generate s, checksum_checksum _⟩

end Sys2Proof.Machine
end

section
/-! PROOFS. The timecode as one number: the two conversions are inverse to each other on in-range
timecodes, the cascade counts one frame on, and a rate change rescales the frame alone. -/

namespace Sys2Proof.Machine

/-- The whole seconds of a timecode, which no rate changes (R161). -/
def Timecode.wholeSeconds (t : Timecode) : Nat := t.second + 60 * t.minute + 3600 * t.hour

/-- A count is the frame and the whole seconds (R150). -/
theorem countOf_eq_wholeSeconds (t : Timecode) (fps : Nat) :
    countOf t fps = t.frame + fps * t.wholeSeconds := by
  rw [countOf, Timecode.wholeSeconds]
  ring

/-- The fields of a number of whole seconds and a frame below `fps` (R151). -/
theorem fieldsOf_add_mul {f fps : Nat} (hf : f < fps) (q : Nat) :
    fieldsOf (f + fps * q) fps = ⟨q / 3600 % 24, q / 60 % 60, q % 60, f⟩ := by
  have hdiv : (f + fps * q) / fps = q := by
    rw [Nat.add_mul_div_left _ _ (by omega), Nat.div_eq_of_lt hf, Nat.zero_add]
  rw [fieldsOf, ← Nat.div_div_eq_div_mul, ← Nat.div_div_eq_div_mul, hdiv, Nat.add_mul_mod_self_left,
    Nat.mod_eq_of_lt hf]

/-- `fieldsOf` undoes `countOf` on an in-range timecode (R151). -/
theorem fieldsOf_countOf {t : Timecode} {fps : Nat} (hf : t.frame < fps) (hs : t.second ≤ 59)
    (hm : t.minute ≤ 59) (hh : t.hour ≤ 23) : fieldsOf (countOf t fps) fps = t := by
  obtain ⟨h, m, s, f⟩ := t
  rw [countOf_eq_wholeSeconds, fieldsOf_add_mul hf, Timecode.wholeSeconds]
  dsimp only at hs hm hh ⊢
  congr 1 <;> omega

theorem fieldsOf_countOf_timecode {r : Registers} (h : r.inRange) :
    fieldsOf (countOf r.timecode r.fps) r.fps = r.timecode := by
  obtain ⟨hf, hs, hm, hh⟩ := (inRange_iff r).1 h
  exact fieldsOf_countOf hf hs hm hh

/-- The fields repeat every day (R151). -/
theorem fieldsOf_mod_day (n : Nat) {fps : Nat} (hfps : 0 < fps) :
    fieldsOf (n % (fps * 86400)) fps = fieldsOf n fps := by
  obtain ⟨hf, hs, hm, hh⟩ := fieldsOf_bounds n hfps
  rw [← countOf_fieldsOf, fieldsOf_countOf hf hs hm hh]

theorem fieldsOf_zero (fps : Nat) : fieldsOf 0 fps = ⟨0, 0, 0, 0⟩ := by
  simp [fieldsOf]

theorem countOf_zero (fps : Nat) : countOf ⟨0, 0, 0, 0⟩ fps = 0 := rfl

/-- The counts of 00:00:00:00 are the whole days. -/
theorem fieldsOf_eq_zero_iff (n : Nat) {fps : Nat} (hfps : 0 < fps) :
    fieldsOf n fps = ⟨0, 0, 0, 0⟩ ↔ fps * 86400 ∣ n := by
  constructor
  · intro h
    have hcount := countOf_fieldsOf n fps
    rw [h, countOf_zero] at hcount
    exact Nat.dvd_of_mod_eq_zero hcount.symm
  · intro h
    rw [← fieldsOf_mod_day n hfps, Nat.mod_eq_zero_of_dvd h, fieldsOf_zero]

/-- The cascade moves the fields of a count on to those of the next (R170): the frame carries into the
whole seconds exactly when it is the last of its second. -/
theorem cascade_fieldsOf (n : Nat) {fps : Nat} (hfps : 0 < fps) :
    cascade fps (fieldsOf n fps) = fieldsOf (n + 1) fps := by
  obtain ⟨f, q, hf, rfl⟩ : ∃ f q, f < fps ∧ n = f + fps * q :=
    ⟨n % fps, n / fps, Nat.mod_lt _ hfps, (Nat.mod_add_div n fps).symm⟩
  rw [fieldsOf_add_mul hf, cascade_eq]
  by_cases hcarry : fps ≤ f + 1
  · have hnext : f + fps * q + 1 = 0 + fps * (q + 1) := by
      rw [Nat.mul_add]
      omega
    rw [hnext, fieldsOf_add_mul hfps]
    simp only [hcarry, if_true]
    congr 1 <;> split_ifs <;> omega
  · have hnext : f + fps * q + 1 = (f + 1) + fps * q := by omega
    rw [hnext, fieldsOf_add_mul (Nat.lt_of_not_le hcarry)]
    simp only [hcarry, if_false]
    congr 1 <;> split_ifs <;> omega

/-- The timecode that a change from `fps` to `k` leaves: the frame scaled and rounded down, the whole
seconds kept (R161). -/
def Timecode.rescale (t : Timecode) (fps k : Nat) : Timecode := { t with frame := t.frame * k / fps }

/-- A rate change multiplies the whole seconds exactly and rounds the frame alone (R160, R161). -/
theorem countOf_rescale (t : Timecode) {fps : Nat} (hfps : 0 < fps) (k : Nat) :
    countOf (t.rescale fps k) k = countOf t fps * k / fps := by
  have hprod : countOf t fps * k = t.frame * k + fps * (k * t.wholeSeconds) := by
    rw [countOf_eq_wholeSeconds]
    ring
  rw [hprod, Nat.add_mul_div_left _ _ hfps, countOf_eq_wholeSeconds]
  rfl

/-- The count of an in-range timecode is below one day. -/
theorem countOf_lt_day {t : Timecode} {fps : Nat} (hf : t.frame < fps) (hs : t.second ≤ 59)
    (hm : t.minute ≤ 59) (hh : t.hour ≤ 23) : countOf t fps < fps * 86400 := by
  rw [← fieldsOf_countOf hf hs hm hh, countOf_fieldsOf]
  exact Nat.mod_lt _ (by omega)

/-- Settles O14. -/
theorem countOfFitsTheCountRegister : Obligations.CountOfFitsTheCountRegister := by
  refine fun r => ⟨rfl, ?_, fieldCount_toNat r⟩
  obtain ⟨hh, hm, hs, hf⟩ := timecode_lt r
  unfold countOf
  rcases fps_cases r with h | h | h <;> rw [h] <;> omega

/-- Settles O15. -/
theorem fieldsOfIsInRangeAndLossless : Obligations.FieldsOfIsInRangeAndLossless := by
  refine fun k => ⟨fun n => ?_, fun t hf hs hm hh => ?_⟩
  · obtain ⟨hf, hs, hm, hh⟩ := fieldsOf_bounds n k.fps_pos
    exact ⟨rfl, hf, Nat.lt_succ_of_le hs, Nat.lt_succ_of_le hm, Nat.lt_succ_of_le hh⟩
  · exact fieldsOf_countOf hf (Nat.le_of_lt_succ hs) (Nat.le_of_lt_succ hm) (Nat.le_of_lt_succ hh)

end Sys2Proof.Machine
end

section
/-! PROOFS. The clock's sets and the rate change, from the registers each command leaves. -/

namespace Sys2Proof.Machine

/-! ## The sets -/

/-- Settles O16: COUNT is the count of the fields with the new one among them. -/
theorem fieldSetsStoreAndRecount : Obligations.FieldSetsStoreAndRecount := fun v s =>
  ⟨_, _, _, _, exec_eq_next (.setHour v) s, exec_eq_next (.setMinute v) s,
    exec_eq_next (.setSecond v) s, exec_eq_next (.setFrame v) s,
    fieldCount_toNat { s.regs with hour := v }, fieldCount_toNat { s.regs with min := v },
    fieldCount_toNat { s.regs with sec := v }, fieldCount_toNat { s.regs with frm := v }⟩

/-- Settles O17. -/
theorem setTcStoresAllFields : Obligations.SetTcStoresAllFields := fun h m sec f s =>
  ⟨_, exec_eq_next (.setTc h m sec f) s,
    fieldCount_toNat { s.regs with hour := h, min := m, sec := sec, frm := f }⟩

/-- A run of commands answers next with the registers they leave one after another. -/
theorem execAll_regs (is : List Instr) (s : State) :
    ∃ t, execAll is s = .next t ∧ t.regs = is.foldl (fun r i => i.regsAfter r) s.regs := by
  induction is generalizing s with
  | nil => exact ⟨s, rfl, rfl⟩
  | cons i is ih =>
    rw [execAll_cons, List.foldl_cons]
    exact ih _

/-- Two field sets leave the same registers in either order: each recounts from the fields as they
then are (R152 to R156). -/
theorem fieldSets_commute {h m sec f : Field} {i j : Instr}
    (hi : i ∈ [.setHour h, .setMinute m, .setSecond sec, .setFrame f])
    (hj : j ∈ [.setHour h, .setMinute m, .setSecond sec, .setFrame f]) (r : Registers) :
    j.regsAfter (i.regsAfter r) = i.regsAfter (j.regsAfter r) := by
  simp only [List.mem_cons, List.not_mem_nil, or_false] at hi hj
  rcases hi with rfl | rfl | rfl | rfl <;> rcases hj with rfl | rfl | rfl | rfl <;> rfl

/-- Settles O18: the sets commute, so any order leaves what the order of SET_TC's operands leaves. -/
theorem setTcIsTheFourFieldSetsInAnyOrder : Obligations.SetTcIsTheFourFieldSetsInAnyOrder := by
  intro h m sec f is s hperm
  obtain ⟨t, hrun, hregs⟩ := execAll_regs is s
  refine ⟨t, _, hrun, exec_eq_next (.setTc h m sec f) s, ?_⟩
  rw [hregs, hperm.foldl_eq' fun i hi j hj r =>
    fieldSets_commute (hperm.mem_iff.1 hi) (hperm.mem_iff.1 hj) r]
  rfl

/-- Settles O19: the fields re-derived are those of the operand. -/
theorem setCountStoresAndDerivesFields : Obligations.SetCountStoresAndDerivesFields := by
  intro n s
  have hfields := rederive_timecode { s.regs with count := n }
  exact ⟨_, _, _, _, exec_eq_next (.setCount n) s, congrArg Timecode.frame hfields,
    congrArg Timecode.second hfields, congrArg Timecode.minute hfields, congrArg Timecode.hour hfields⟩

/-- Settles O20: once the second state is written with the fields and RATE of the first, each of the six
commands gives both the same new fields and COUNT. -/
theorem clockSetsIgnoreTheSwitches : Obligations.ClockSetsIgnoreTheSwitches := by
  rintro i hi s ⟨⟨hour, min, sec, frm, count, rate, df, il, cf, ubf, ext, sfa, ub⟩, host, responses, line⟩
    ⟨hhour, hmin, hsec, hfrm, hrate⟩
  dsimp only at hhour hmin hsec hfrm hrate
  subst hhour hmin hsec hfrm hrate
  rcases hi with ⟨v, rfl | rfl | rfl | rfl⟩ | ⟨h, m, sec, f, rfl⟩ | ⟨n, rfl⟩ <;>
    exact ⟨_, _, _, _, _, exec_eq_next _ s, exec_eq_next _ _⟩

/-! ## The rate change -/

/-- The three legal numbers are the values of the rate kinds (R25, R160). -/
theorem legal_iff_exists_fps (r : Argument) :
    (r = 24 ∨ r = 25 ∨ r = 30) ↔ ∃ k : Rate, k.fps = r.toNat := by
  constructor
  · rintro (rfl | rfl | rfl)
    · exact ⟨.film, rfl⟩
    · exact ⟨.pal, rfl⟩
    · exact ⟨.ntsc, rfl⟩
  · rintro ⟨k, hk⟩
    cases k with
    | film => exact .inl (BitVec.eq_of_toNat_eq hk.symm)
    | pal => exact .inr (.inl (BitVec.eq_of_toNat_eq hk.symm))
    | ntsc => exact .inr (.inr (BitVec.eq_of_toNat_eq hk.symm))

theorem exec_setRate_of_fps {r : Argument} {k : Rate} (hk : k.fps = r.toNat) (s : State) :
    exec (.setRate r) s = .next { s with regs := s.regs.changeRate k,
                                         responses := s.responses ++ [⟨.ok, 0⟩] } := by
  have hfind : Rate.ofFps? r.toNat = some k := by rw [← hk, Rate.ofFps_fps]
  rw [exec_eq_next, regsAfter_setRate_of_some hfind, answer_setRate_of_some hfind]

theorem changeRate_count_toNat (r : Registers) (k : Rate) :
    (r.changeRate k).count.toNat = r.count.toNat * k.fps / r.fps % 2 ^ 32 :=
  BitVec.toNat_ofNat _ _

theorem changeRate_timecode (r : Registers) (k : Rate) :
    (r.changeRate k).timecode = fieldsOf (r.changeRate k).count.toNat k.fps :=
  rederive_timecode _

/-- Settles O21. -/
theorem setRateRescalesTheCount : Obligations.SetRateRescalesTheCount := by
  intro r s hr
  obtain ⟨k, hk⟩ := (legal_iff_exists_fps r).1 hr
  have hcount := changeRate_count_toNat s.regs k
  have hfields := changeRate_timecode s.regs k
  rw [hk] at hcount hfields
  exact ⟨k, _, _, _, _, _, exec_setRate_of_fps hk s, hk, hcount, congrArg Timecode.frame hfields,
    congrArg Timecode.second hfields, congrArg Timecode.minute hfields, congrArg Timecode.hour hfields⟩

/-- Settles O22: SET_RATE finds a rate kind for a legal number alone. -/
theorem setRateOutsideTheRatesIsBadArg : Obligations.SetRateOutsideTheRatesIsBadArg := by
  intro r s h24 h25 h30
  rcases execSetRate_cases r s with ⟨k, hk, -⟩ | ⟨-, hraise⟩
  · rcases (legal_iff_exists_fps r).2 ⟨k, hk⟩ with h | h | h <;> contradiction
  · exact hraise

/-- A rate change of an in-range timecode whose COUNT is its own count scales the frame alone (R161). -/
theorem changeRate_timecode_of_count {r : Registers} (hrange : r.inRange)
    (hcount : r.count.toNat = countOf r.timecode r.fps) (k : Rate) :
    (r.changeRate k).timecode = r.timecode.rescale r.fps k.fps := by
  obtain ⟨hf, hs, hm, hh⟩ := (inRange_iff r).1 hrange
  have hframe : (r.timecode.rescale r.fps k.fps).frame < k.fps :=
    Nat.div_lt_of_lt_mul (Nat.mul_lt_mul_of_pos_right hf k.fps_pos)
  have hfits : countOf (r.timecode.rescale r.fps k.fps) k.fps < 2 ^ 32 := by
    have hday := countOf_lt_day hframe hs hm hh
    rcases k.fps_cases with h | h | h <;> omega
  rw [changeRate_timecode, changeRate_count_toNat, hcount, ← countOf_rescale _ r.rate.fps_pos,
    Nat.mod_eq_of_lt hfits, fieldsOf_countOf hframe hs hm hh]

/-- Settles O23. -/
theorem setRatePreservesWallClock : Obligations.SetRatePreservesWallClock := by
  intro r s hr hrange hcount
  obtain ⟨k, hk⟩ := (legal_iff_exists_fps r).1 hr
  have hfields := changeRate_timecode_of_count hrange hcount k
  rw [hk] at hfields
  exact ⟨_, exec_setRate_of_fps hk s, BitVec.eq_of_toNat_eq (congrArg Timecode.hour hfields),
    BitVec.eq_of_toNat_eq (congrArg Timecode.minute hfields),
    BitVec.eq_of_toNat_eq (congrArg Timecode.second hfields), congrArg Timecode.frame hfields⟩

end Sys2Proof.Machine
end

section
/-! PROOFS. STEP in full, and runs of STEPs: a run follows a labelling of the frames by counts, every count
in turn without drop-frame, and the counts that are no skipped label with it. -/

namespace Sys2Proof.Machine

/-! ## One STEP -/

theorem advance_of_dropsFrames (sync : Bool) {r : Registers} (h : r.cascaded.dropsFrames = true) :
    r.advance sync = { r.cascaded.correctDropFrame sync with sfa := false } := by
  rw [advance_eq, if_pos h]

theorem advance_of_not_dropsFrames (sync : Bool) {r : Registers} (h : ¬ r.cascaded.dropsFrames = true) :
    r.advance sync = { r.cascaded with sfa := false } := by
  rw [advance_eq, if_neg h]

/-- STEP writes the fields, COUNT and SFA alone (R170). -/
theorem advance_frame (sync : Bool) (r : Registers) :
    r.advance sync =
      { r with hour := (r.advance sync).hour, min := (r.advance sync).min, sec := (r.advance sync).sec,
               frm := (r.advance sync).frm, count := (r.advance sync).count, sfa := false } := by
  rw [advance_eq]
  split <;> rfl

/-- The fields after STEP: those of the cascade, FRM forced to 2 where the correction applies (R172). -/
theorem advance_timecode_of_dropsFrames (sync : Bool) {r : Registers}
    (h : r.cascaded.dropsFrames = true) :
    (r.advance sync).timecode = { cascade r.fps r.timecode with frame := 2 } := by
  rw [advance_of_dropsFrames sync h, ← cascaded_timecode]
  rfl

theorem advance_timecode_of_not_dropsFrames (sync : Bool) {r : Registers}
    (h : ¬ r.cascaded.dropsFrames = true) :
    (r.advance sync).timecode = cascade r.fps r.timecode := by
  rw [advance_of_not_dropsFrames sync h, ← cascaded_timecode]
  rfl

theorem advance_count_of_dropsFrames (sync : Bool) {r : Registers}
    (h : r.cascaded.dropsFrames = true) :
    (r.advance sync).count.toNat + (if sync then 0 else 2) = countOf (r.advance sync).timecode r.fps := by
  obtain ⟨-, -, -, hfrm, -⟩ := (cascaded_dropsFrames_iff r).1 h
  rw [advance_of_dropsFrames sync h]
  exact correctDropFrame_count sync (by rw [cascaded_timecode, hfrm]) (cascaded_count_toNat r)

theorem advance_count_of_not_dropsFrames (sync : Bool) {r : Registers}
    (h : ¬ r.cascaded.dropsFrames = true) :
    (r.advance sync).count.toNat = countOf (r.advance sync).timecode r.fps := by
  rw [advance_of_not_dropsFrames sync h]
  exact cascaded_count_toNat r

/-- HOUR, MIN and SEC after STEP are those of the cascade, corrected or not (R172). -/
theorem advance_clock_eq_cascade (sync : Bool) (r : Registers) :
    (r.advance sync).hour.toNat = (cascade r.fps r.timecode).hour ∧
      (r.advance sync).min.toNat = (cascade r.fps r.timecode).minute ∧
      (r.advance sync).sec.toNat = (cascade r.fps r.timecode).second := by
  by_cases h : r.cascaded.dropsFrames = true
  · have hfields := advance_timecode_of_dropsFrames sync h
    exact ⟨congrArg Timecode.hour hfields, congrArg Timecode.minute hfields,
      congrArg Timecode.second hfields⟩
  · have hfields := advance_timecode_of_not_dropsFrames sync h
    exact ⟨congrArg Timecode.hour hfields, congrArg Timecode.minute hfields,
      congrArg Timecode.second hfields⟩

/-- FRM and COUNT after a STEP that corrects: FRM is 2, and COUNT counts it exactly when `sync` (R172). -/
theorem advance_frm_count_of_dropsFrames (sync : Bool) {r : Registers}
    (h : r.cascaded.dropsFrames = true) :
    (r.advance sync).frm.toNat = 2 ∧
      (r.advance sync).count.toNat = countOf
        { cascade r.fps r.timecode with frame := if sync = true then 2 else 0 } r.fps := by
  have hfields := advance_timecode_of_dropsFrames sync h
  have hcount := advance_count_of_dropsFrames sync h
  rw [hfields] at hcount
  refine ⟨congrArg Timecode.frame hfields, ?_⟩
  cases sync with
  | true => exact hcount
  | false =>
    have htwo := countOf_frame (cascade r.fps r.timecode) r.fps 2
    have hzero := countOf_frame (cascade r.fps r.timecode) r.fps 0
    simp only [Bool.false_eq_true, if_false] at hcount ⊢
    omega

/-- FRM and COUNT after a STEP that does not correct are those of the cascade (R170). -/
theorem advance_frm_count_of_not_dropsFrames (sync : Bool) {r : Registers}
    (h : ¬ r.cascaded.dropsFrames = true) :
    (r.advance sync).frm.toNat = (cascade r.fps r.timecode).frame ∧
      (r.advance sync).count.toNat = countOf (cascade r.fps r.timecode) r.fps := by
  have hfields := advance_timecode_of_not_dropsFrames sync h
  exact ⟨congrArg Timecode.frame hfields, by rw [advance_count_of_not_dropsFrames sync h, hfields]⟩

/-- Settles O24: the four tests are the cascade's, and the condition of the correction is on its fields. -/
theorem stepAdvancesOneFrame : Obligations.StepAdvancesOneFrame := by
  intro s
  have hcascade := cascade_eq s.regs.fps s.regs.hour.toNat s.regs.min.toNat s.regs.sec.toNat
    s.regs.frm.toNat
  obtain ⟨hhour, hmin, hsec⟩ := advance_clock_eq_cascade Config.dfCountSync s.regs
  have hdrops := cascaded_dropsFrames_iff s.regs
  have hcorrected := advance_frm_count_of_dropsFrames Config.dfCountSync (r := s.regs)
  have hplain := advance_frm_count_of_not_dropsFrames Config.dfCountSync (r := s.regs)
  rw [hdrops, Registers.timecode, hcascade] at hcorrected hplain
  rw [Registers.timecode, hcascade] at hhour hmin hsec
  have hexec := exec_eq_next .step s
  rw [Instr.regsAfter, advance_frame] at hexec
  exact ⟨_, _, _, _, _, hexec, hhour, hmin, hsec, hcorrected, hplain⟩

/-- The cascade reaches frame 1 only from frame 0, where nothing carries (R170). -/
theorem cascade_of_frame_eq_one {fps : Nat} {t : Timecode} (hs : t.second ≤ 59) (hm : t.minute ≤ 59)
    (hone : (cascade fps t).frame = 1) :
    t.frame = 0 ∧ (cascade fps t).second = t.second ∧ (cascade fps t).minute = t.minute := by
  obtain ⟨h, m, s, f⟩ := t
  rw [cascade_eq] at hone ⊢
  have hcarry : ¬ fps ≤ f + 1 := fun hle => by simp [hle] at hone
  simp only [if_neg hcarry, if_neg (Nat.not_lt.2 hs), if_neg (Nat.not_lt.2 hm)] at hone ⊢
  exact ⟨Nat.succ.inj hone, trivial, trivial⟩

/-- A label is skipped by its numbers (R174). -/
theorem onSkippedLabel_iff (r : Registers) :
    r.onSkippedLabel ↔
      r.timecode.second = 0 ∧ (r.timecode.frame = 0 ∨ r.timecode.frame = 1) ∧
        r.timecode.minute % 10 ≠ 0 := by
  simp only [Registers.onSkippedLabel, Registers.timecode, ← BitVec.toNat_inj]
  rfl

/-- Under drop-frame, STEP from an in-range label that is not skipped leads to none that is: where it
lands on frame 0 of such a label it corrects to frame 2, and on frame 1 it would come from frame 0 of the
same minute (R172, R174). -/
theorem advance_not_onSkippedLabel (sync : Bool) {r : Registers} (hdf : r.df = true)
    (hrate : r.rate = .ntsc) (hrange : r.inRange) (hlabel : ¬ r.onSkippedLabel) :
    ¬ (r.advance sync).onSkippedLabel := by
  obtain ⟨-, hs, hm, -⟩ := (inRange_iff r).1 hrange
  rw [onSkippedLabel_iff] at hlabel ⊢
  by_cases hdrops : r.cascaded.dropsFrames = true
  · rw [advance_timecode_of_dropsFrames sync hdrops]
    simp
  · rw [advance_timecode_of_not_dropsFrames sync hdrops]
    rintro ⟨hsec, hzero | hone, hmin⟩
    · exact hdrops ((cascaded_dropsFrames_iff r).2 ⟨hdf, hrate, hsec, hzero, hmin⟩)
    · obtain ⟨hfrm, hsecEq, hminEq⟩ := cascade_of_frame_eq_one hs hm hone
      exact hlabel ⟨hsecEq ▸ hsec, .inl hfrm, hminEq ▸ hmin⟩

/-- Settles O28. -/
theorem stepNeverLandsOnASkippedLabel : Obligations.StepNeverLandsOnASkippedLabel :=
  fun s hdf hrate hrange hlabel => ⟨_, exec_eq_next .step s,
    advance_not_onSkippedLabel Config.dfCountSync hdf hrate hrange hlabel⟩

/-! ## Runs of STEPs -/

/-- A run of `k` STEPs answers next with the registers advanced `k` times. -/
theorem execAll_replicate_step (k : Nat) (s : State) :
    ∃ t, execAll (List.replicate k .step) s = .next t ∧
      t.regs = (Registers.advance Config.dfCountSync)^[k] s.regs := by
  induction k generalizing s with
  | zero => exact ⟨s, rfl, rfl⟩
  | succ k ih =>
    rw [List.replicate_succ, execAll_cons, Function.iterate_succ_apply]
    exact ih _

@[simp] theorem iterate_advance_rate (sync : Bool) (k : Nat) (r : Registers) :
    ((Registers.advance sync)^[k] r).rate = r.rate := by
  induction k generalizing r with
  | zero => rfl
  | succ k ih => rw [Function.iterate_succ_apply, ih, advance_rate]

theorem iterate_advance_fps (sync : Bool) (k : Nat) (r : Registers) :
    ((Registers.advance sync)^[k] r).fps = r.fps :=
  congrArg Rate.fps (iterate_advance_rate sync k r)

@[simp] theorem iterate_advance_df (sync : Bool) (k : Nat) (r : Registers) :
    ((Registers.advance sync)^[k] r).df = r.df := by
  induction k generalizing r with
  | zero => rfl
  | succ k ih => rw [Function.iterate_succ_apply, ih, advance_df]

/-- STEP follows a labelling of the frames by counts if it leads from the label of each frame to the label
of the next, at the DF and RATE given. -/
def StepFollows (sync df : Bool) (rate : Rate) (label : Nat → Nat) : Prop :=
  ∀ (r : Registers) (j : Nat), r.df = df → r.rate = rate →
    r.timecode = fieldsOf (label j) rate.fps →
    (r.advance sync).timecode = fieldsOf (label (j + 1)) rate.fps

/-- If STEP follows a labelling, `k` STEPs move `k` frames on in it. -/
theorem StepFollows.iterate {sync : Bool} {r : Registers} {label : Nat → Nat}
    (hfollows : StepFollows sync r.df r.rate label) {j : Nat}
    (hlabel : r.timecode = fieldsOf (label j) r.fps) (k : Nat) :
    ((Registers.advance sync)^[k] r).timecode = fieldsOf (label (j + k)) r.fps := by
  induction k with
  | zero => exact hlabel
  | succ k ih =>
    rw [Function.iterate_succ_apply']
    exact hfollows _ (j + k) (iterate_advance_df sync k r) (iterate_advance_rate sync k r) ih

/-! ## Runs without drop-frame -/

theorem not_dropsFrames_of_mode {r : Registers} (hmode : ¬ (r.df = true ∧ r.rate = .ntsc)) :
    ¬ r.cascaded.dropsFrames = true := by
  intro h
  obtain ⟨hdf, hrate, -⟩ := (cascaded_dropsFrames_iff r).1 h
  exact hmode ⟨hdf, hrate⟩

/-- Without drop-frame STEP counts every frame. -/
theorem stepFollows_id (sync : Bool) {df : Bool} {rate : Rate} (hmode : ¬ (df = true ∧ rate = .ntsc)) :
    StepFollows sync df rate id := by
  rintro r j rfl rfl hlabel
  rw [advance_timecode_of_not_dropsFrames sync (not_dropsFrames_of_mode hmode), hlabel]
  exact cascade_fieldsOf j r.rate.fps_pos

/-- Settles O29: STEP counts every frame, and the last STEP has recomputed COUNT. -/
theorem stepsAdvanceTheClock : Obligations.StepsAdvanceTheClock := by
  intro k s hrange hmode
  obtain ⟨t, hrun, hregs⟩ := execAll_replicate_step (k + 1) s
  have htimecode := (stepFollows_id Config.dfCountSync hmode).iterate
    (j := countOf s.regs.timecode s.regs.fps) (fieldsOf_countOf_timecode hrange).symm (k + 1)
  rw [← hregs, id] at htimecode
  refine ⟨t, hrun, htimecode, ?_⟩
  have hplain : ¬ ((Registers.advance Config.dfCountSync)^[k] s.regs).cascaded.dropsFrames = true :=
    not_dropsFrames_of_mode (by simpa using hmode)
  have hcount := advance_count_of_not_dropsFrames Config.dfCountSync hplain
  rwa [← Function.iterate_succ_apply' (Registers.advance _), ← hregs, htimecode,
    iterate_advance_fps, countOf_fieldsOf] at hcount

/-- Settles O30: the timecode is zero exactly after whole days, where the count of its fields is 0. -/
theorem dayWrapsExactly : Obligations.DayWrapsExactly := by
  intro k s hzero hmode
  have hrange : s.regs.inRange := by
    rw [inRange_iff, hzero]
    exact ⟨s.regs.rate.fps_pos, by decide, by decide, by decide⟩
  obtain ⟨t, hrun, htimecode, hcount⟩ := stepsAdvanceTheClock k s hrange hmode
  rw [hzero, countOf_zero, Nat.zero_add] at htimecode hcount
  have hday : t.regs.timecode = ⟨0, 0, 0, 0⟩ ↔ s.regs.fps * 86400 ∣ k + 1 := by
    rw [htimecode, fieldsOf_eq_zero_iff _ s.regs.rate.fps_pos]
  refine ⟨t, hrun, hday, fun hwrapped => BitVec.eq_of_toNat_eq ?_⟩
  rw [hcount, Nat.mod_eq_zero_of_dvd (hday.1 hwrapped)]
  rfl

/-! ## Runs under drop-frame -/

/-- The count of the label of frame `j` under drop-frame (R174): a block of ten minutes has 17982 frames
and 18000 labels, its first minute has 1800 frames, and each later minute skips two labels and has 1798. -/
def dropFrameLabel (j : Nat) : Nat := j + 18 * (j / 17982) + 2 * ((j % 17982 - 2) / 1798)

/-- The next label is two further on exactly where a minute begins that is no multiple of ten. -/
theorem dropFrameLabel_succ (j : Nat) :
    dropFrameLabel (j + 1) =
      if (dropFrameLabel j + 1) % 1800 = 0 ∧ (dropFrameLabel j + 1) % 18000 ≠ 0 then dropFrameLabel j + 3
      else dropFrameLabel j + 1 := by
  unfold dropFrameLabel
  split_ifs <;> omega

/-- The labels of a block begin at its count. -/
theorem dropFrameLabel_block (d : Nat) : dropFrameLabel (17982 * d) = 18000 * d := by
  unfold dropFrameLabel
  omega

/-- Block `d` begins at a multiple of ten minutes, six blocks to the hour. -/
theorem fieldsOf_block (d : Nat) : fieldsOf (18000 * d) 30 = ⟨d / 6 % 24, d % 6 * 10, 0, 0⟩ := by
  simp only [fieldsOf, Timecode.mk.injEq]
  omega

theorem le_dropFrameLabel (j : Nat) : j ≤ dropFrameLabel j := by
  unfold dropFrameLabel
  omega

theorem dropFrameLabel_lt {j d : Nat} (hj : j < 17982 * d) : dropFrameLabel j < 18000 * d := by
  unfold dropFrameLabel
  omega

/-- The labels the correction acts on are the counts of the minute starts that are no multiple of ten
minutes (R151, R172). -/
theorem fieldsOf_minuteStart_iff (n : Nat) :
    ((fieldsOf n 30).second = 0 ∧ (fieldsOf n 30).frame = 0 ∧ (fieldsOf n 30).minute % 10 ≠ 0) ↔
      n % 1800 = 0 ∧ n % 18000 ≠ 0 := by
  simp only [fieldsOf]
  omega

/-- From the start of a minute, frame 2 is two counts on. -/
theorem fieldsOf_add_two {n : Nat} (hn : n % 1800 = 0) :
    fieldsOf (n + 2) 30 = { fieldsOf n 30 with frame := 2 } := by
  simp only [fieldsOf, Timecode.mk.injEq]
  omega

/-- Under drop-frame STEP goes from each label to the next that is not skipped (R172). -/
theorem stepFollows_dropFrameLabel (sync : Bool) : StepFollows sync true .ntsc dropFrameLabel := by
  intro r j hdf hrate hlabel
  have hfps : r.fps = 30 := congrArg Rate.fps hrate
  have hcascade : cascade r.fps r.timecode = fieldsOf (dropFrameLabel j + 1) 30 := by
    rw [hlabel, hfps]
    exact cascade_fieldsOf _ (by decide)
  have hdrops : r.cascaded.dropsFrames = true ↔
      (dropFrameLabel j + 1) % 1800 = 0 ∧ (dropFrameLabel j + 1) % 18000 ≠ 0 := by
    rw [cascaded_dropsFrames_iff, hcascade, fieldsOf_minuteStart_iff]
    simp only [hdf, hrate, true_and]
  rw [dropFrameLabel_succ]
  split
  next hskip =>
    rw [advance_timecode_of_dropsFrames sync (hdrops.2 hskip), hcascade, ← fieldsOf_add_two hskip.1]
    rfl
  next hskip =>
    rw [advance_timecode_of_not_dropsFrames sync (hskip ∘ hdrops.1), hcascade]
    rfl

/-- A run under drop-frame from the start of a ten-minute block ends at a label of the numbering. -/
theorem execAll_step_dropFrame {s : State} (hdf : s.regs.df = true) (hrate : s.regs.rate = .ntsc) {d : Nat}
    (hstart : s.regs.timecode = fieldsOf (18000 * d) 30) (k : Nat) :
    ∃ t, execAll (List.replicate k .step) s = .next t ∧
      t.regs.timecode = fieldsOf (dropFrameLabel (17982 * d + k)) 30 := by
  obtain ⟨t, hrun, hregs⟩ := execAll_replicate_step k s
  have hfps : s.regs.fps = 30 := congrArg Rate.fps hrate
  have hfollows : StepFollows Config.dfCountSync s.regs.df s.regs.rate dropFrameLabel := by
    rw [hdf, hrate]
    exact stepFollows_dropFrameLabel _
  have htimecode := hfollows.iterate (j := 17982 * d) (by rw [hstart, dropFrameLabel_block, hfps]) k
  rw [← hregs, hfps] at htimecode
  exact ⟨t, hrun, htimecode⟩

/-- Settles O31: block `d` of the day begins at the label h:m:00:00 with `d = 6h + m/10`, and 17982 frames
on the next block begins. -/
theorem dropFrameTenMinuteCycle : Obligations.DropFrameTenMinuteCycle := by
  intro s hdf hrate hrange hten hsec hfrm
  obtain ⟨d, hd⟩ : ∃ d, d = 6 * s.regs.hour.toNat + s.regs.min.toNat / 10 := ⟨_, rfl⟩
  obtain ⟨-, -, hmin, hhour⟩ := hrange
  have hstart : s.regs.timecode = fieldsOf (18000 * d) 30 := by
    rw [fieldsOf_block, Registers.timecode, hsec, hfrm, Timecode.mk.injEq]
    exact ⟨by omega, by omega, rfl, rfl⟩
  obtain ⟨t, hexec, htimecode⟩ := execAll_step_dropFrame hdf hrate hstart 17982
  refine ⟨t, hexec, ?_⟩
  have hnext : dropFrameLabel (17982 * d + 17982) = 18000 * (d + 1) := by
    rw [← Nat.mul_succ, dropFrameLabel_block]
  rw [htimecode, hnext, fieldsOf_block, Timecode.mk.injEq]
  omega

/-- Settles O32: 144 blocks make a day, and no label between is the count of a whole day. -/
theorem dropFrameDay : Obligations.DropFrameDay := by
  intro s hdf hrate hzero
  have hrun := execAll_step_dropFrame hdf hrate (d := 0) (by rw [hzero, fieldsOf_zero])
  refine ⟨?_, fun k hpos hlt => ?_⟩
  · obtain ⟨t, hexec, htimecode⟩ := hrun 2589408
    refine ⟨t, hexec, ?_⟩
    have hday : dropFrameLabel (17982 * 0 + 2589408) = 30 * 86400 := dropFrameLabel_block 144
    rw [htimecode, hday, fieldsOf_eq_zero_iff _ (by decide)]
  · obtain ⟨u, hexec, htimecode⟩ := hrun k
    refine ⟨u, hexec, ?_⟩
    have hlow := le_dropFrameLabel (17982 * 0 + k)
    have hhigh : dropFrameLabel (17982 * 0 + k) < 18000 * 144 := dropFrameLabel_lt (by omega)
    rw [htimecode, Ne, fieldsOf_eq_zero_iff _ (by decide)]
    omega

end Sys2Proof.Machine
end

section
/-! PROOFS. The line codec's commands one by one: the no-operation, the field switch, the user bits, the
read of COUNT, and GENERATE twice. -/

namespace Sys2Proof.Machine

/-! ## The commands that write a register -/

/-- With IL set, SWITCH_FIELD inverts SFA alone (R205). -/
theorem regsAfter_switchField_of_il {r : Registers} (hil : r.il = true) :
    Instr.switchField.regsAfter r = { r with sfa := !r.sfa } := by
  rw [Instr.regsAfter, if_pos hil]

/-- With IL clear, SWITCH_FIELD leaves every register (R205). -/
theorem regsAfter_switchField_of_not_il {r : Registers} (hil : r.il = false) :
    Instr.switchField.regsAfter r = r := by
  rw [Instr.regsAfter, if_neg (ne_true_of_eq_false hil)]

/-- Settles O34: one clause for each value of IL. -/
theorem switchFieldTogglesWhenInterlaced : Obligations.SwitchFieldTogglesWhenInterlaced := by
  refine fun s => ⟨fun hil => ?_, fun hil => ?_⟩
  · rw [exec_eq_next, regsAfter_switchField_of_il hil]
    rfl
  · rw [exec_eq_next, regsAfter_switchField_of_not_il hil]
    rfl

/-- Settles O36: CLEAR_UB leaves the registers, and gives the response, of SET_UB with operand 0. -/
theorem userBitsAreSetAndCleared : Obligations.UserBitsAreSetAndCleared := fun n s =>
  ⟨exec_eq_next (.setUb n) s, exec_eq_next .clearUb s,
    (exec_eq_next .clearUb s).trans (exec_eq_next (.setUb 0) s).symm⟩

/-! ## The commands that write none -/

/-- Settles O33. -/
theorem nopDoesNothing : Obligations.NopDoesNothing := exec_eq_next .nop

/-- Settles O38: the data is COUNT zero-extended, so it has the number of COUNT. -/
theorem readCountReturnsTheCount : Obligations.ReadCountReturnsTheCount := fun s =>
  ⟨readData s.regs.count, exec_eq_next .readCount s, readData_toNat s.regs.count⟩

/-- Two commands answer in order, the second from the registers the first leaves. -/
theorem execAll_two (i j : Instr) (s : State) :
    execAll [i, j] s = .next
      { s with regs := j.regsAfter (i.regsAfter s.regs),
               responses := s.responses ++ [i.answer s.regs, j.answer (i.regsAfter s.regs)] } := by
  rw [execAll_cons, execAll_cons, execAll]
  simp only [List.append_assoc, List.cons_append, List.nil_append]

/-- Settles O50: GENERATE leaves every register, so the second answers from the registers of the first. -/
theorem generateIsIdempotent : Obligations.GenerateIsIdempotent := fun s =>
  ⟨s.regs.line, execAll_two .generate .generate s⟩

end Sys2Proof.Machine
end

section
/-! PROOFS. The statements of the exceptions: the two errors a command word can end in, and that no step
stops. -/

namespace Sys2Proof

/-! ## What the decoder answers, by the numbers of the two fields -/

/-- A reserved opcode is refused before its argument is looked at (R75, R251, R253). -/
theorem decode_of_reserved {w : CommandWord} (hopc : 0x10 < w.toNat / 2 ^ 32) :
    decode w = .error .badOpcode := by
  rw [← opcodeField_toNat, ← opcodeRow_eq_none] at hopc
  simp [decode, hopc]

/-- An assigned opcode decodes to a command or is refused for its argument, as the table of R252 says. -/
theorem decode_of_assigned {w : CommandWord} (hopc : w.toNat / 2 ^ 32 ≤ 0x10) :
    (Machine.argumentIllegal (w.toNat / 2 ^ 32) (w.toNat % 2 ^ 32) = true ∧
      decode w = .error .badArg) ∨
    (Machine.argumentIllegal (w.toNat / 2 ^ 32) (w.toNat % 2 ^ 32) = false ∧
      ∃ i, decode w = .ok i) := by
  rw [← opcodeField_toNat] at hopc ⊢
  rw [← argField_toNat]
  rcases decode_cases w with ⟨hreserved, -⟩ | ⟨form, operands, hrow, hargument⟩
  · exact absurd ((opcodeRow_eq_none _).1 hreserved) (Nat.not_lt.2 hopc)
  have hlegal := legal_iff_of_row hrow (argField w)
  rcases hargument with ⟨hok, hdecode⟩ | ⟨hbad, hdecode⟩
  · exact .inr ⟨hlegal.1 hok, _, hdecode⟩
  · exact .inl ⟨by simpa [hbad] using hlegal, hdecode⟩

end Sys2Proof

namespace Sys2Proof.Machine

/-! ## The two errors -/

/-- An illegal word is taken from the host and ends in its error: one response with data 0, and no
register changed (R76, R250, R254). -/
theorem step_of_decode_error {w : CommandWord} {e : CommandError} {rest : List HostAction} {s : State}
    (hhost : s.host = .command w :: rest) (hreset : s.resetLine = false)
    (hdecode : decode w = .error e) :
    step s = .next
      { s with host := rest, responses := s.responses ++ [⟨errorStatus e, 0⟩] } := by
  rw [step_of_command hhost hreset, runCommand, hdecode]
  exact raise_eq_next.2 rfl

/-- Settles O4. -/
theorem reservedOpcodeAnswersBadOpcode : Obligations.ReservedOpcodeAnswersBadOpcode :=
  fun _ _ _ hhost hreset hopc =>
    ⟨step_of_decode_error hhost hreset (decode_of_reserved hopc), rfl⟩

/-- Settles O5: one clause for each answer of the decoder to an assigned opcode. -/
theorem illegalArgumentAnswersBadArg : Obligations.IllegalArgumentAnswersBadArg := by
  refine ⟨rfl, fun w rest s hhost hreset hopc => ?_⟩
  rcases decode_of_assigned hopc with ⟨hillegal, hdecode⟩ | ⟨hlegal, i, hdecode⟩
  · refine ⟨fun _ => step_of_decode_error hhost hreset hdecode, fun hlegal => ?_⟩
    exact absurd hillegal (ne_true_of_eq_false hlegal)
  · refine ⟨fun hillegal => absurd hillegal (ne_true_of_eq_false hlegal), fun _ => ?_⟩
    exact ⟨i, hdecode, stepRunsTheDecodedCommand w i rest s hhost hreset hdecode⟩

/-! ## No step stops -/

/-- With nothing presented the core waits and nothing changes (R258). -/
theorem step_of_host_nil {s : State} (hhost : s.host = []) : step s = .next s := by
  simp [step, takeHostAction, hhost]

/-- A released reset input sets it released and, if it was asserted, the registers to their reset values
(R270). -/
theorem step_of_releaseReset {rest : List HostAction} {s : State} (hhost : s.host = .releaseReset :: rest) :
    step s = .next (releaseReset { s with host := rest }) := by
  simp [step, takeHostAction, hhost]

/-- A presented word runs to its response: a legal word's command completes (R276), an illegal word ends
in its error (R250, R254). -/
theorem runCommand_answers_next (w : CommandWord) (s : State) : ∃ t, runCommand w s = .next t := by
  obtain ⟨t, -, hnext, -⟩ := runCommand_status w s
  exact ⟨t, hnext⟩

/-- Settles O9: one case for each head of the host's list, a presented word by the level of the reset
input. -/
theorem stepAlwaysAnswersNext : Obligations.StepAlwaysAnswersNext := by
  intro s
  match hhost : s.host with
  | [] => exact ⟨s, step_of_host_nil hhost⟩
  | .command w :: rest =>
    obtain ⟨-, hheld, -⟩ := resetInputResetsTheRegisters rest s
    cases hline : s.resetLine with
    | true => exact ⟨s, hheld hline w hhost⟩
    | false =>
      rw [step_of_command hhost hline]
      exact runCommand_answers_next w { s with host := rest }
  | .assertReset :: rest =>
    obtain ⟨hassert, -, -⟩ := resetInputResetsTheRegisters rest s
    exact ⟨_, hassert hhost⟩
  | .releaseReset :: rest => exact ⟨_, step_of_releaseReset hhost⟩

end Sys2Proof.Machine
end

section
/-! PROOFS. The statements of the state right after reset: the line that GENERATE returns, and the
responses given. -/

namespace Sys2Proof.Machine

/-! ## The line of the reset state -/

/-- At reset every flag bit is 0: DF and SFA are clear, so the tests of RATE, the open parameter, do not
count (R201, R271). -/
theorem lineFlags_reset :
    Registers.reset.lineFlags =
      { b14 := false, b15 := false, b35 := false, b55 := false, b74 := false, b75 := false } := by
  simp only [Registers.lineFlags, Registers.reset, Bool.false_and]

theorem timecode_reset : Registers.reset.timecode = ⟨0, 0, 0, 0⟩ := rfl

/-- With the timecode, the flags and the user bits 0 the layout holds the nine sync bits alone (R101). -/
theorem layout_zero :
    layout ⟨0, 0, 0, 0⟩ ⟨false, false, false, false, false, false⟩ 0 = lineOfBits syncBits := by
  decide +kernel

/-- Of the nine sync bits, 0, 40 and 80 count in bit 88 and two each in bits 82, 84 and 86, so the checksum
adds bit 88 alone (R131, vector L2-1). -/
theorem checksum_syncBits : checksum (lineOfBits syncBits) = 0x10100401004010040100401 := by
  decide +kernel

/-- The line of the reset registers, for any value of `RESET_RATE` (R271). -/
theorem line_reset : Registers.reset.line = 0x10100401004010040100401 :=
  calc Registers.reset.line
    _ = checksum (layout Registers.reset.timecode Registers.reset.lineFlags 0) := rfl
    _ = checksum (lineOfBits syncBits) := by rw [timecode_reset, lineFlags_reset, layout_zero]
    _ = 0x10100401004010040100401 := checksum_syncBits

/-! ## The statements -/

/-- Settles O13: GENERATE answers with the line of the reset registers, and leaves them. -/
theorem generateAfterReset : Obligations.GenerateAfterReset := by
  rw [Obligations.GenerateAfterReset, ← line_reset]
  exact exec_eq_next .generate State.reset

/-- Settles O57. -/
theorem noResponseAtReset : Obligations.NoResponseAtReset := rfl

end Sys2Proof.Machine
end
